-- ==== Sys2Proof/Word.lean ====
section
/-! DEFINITION. The widths the spec gives: bytes and general registers (00_scope.md R5), 16-bit words and
pointers (10_state.md R22, R23), the 4-bit register index of an instruction (30_encoding.md R62) and the 17-bit
information word of the fault record (10_state.md R31). -/

namespace Sys2Proof

/-- One byte of Memory, one general register, one timer (00_scope.md R5). -/
abbrev Byte := BitVec 8

/-- An instruction word, the address register, the program counter, a stack entry. -/
abbrev Word := BitVec 16

/-- A register index as an instruction names it: the fields X and Y (30_encoding.md R62). -/
abbrev Reg := BitVec 4

/-- The information word of the fault record (10_state.md R31, 60_exceptions.md R162). -/
abbrev Info := BitVec 17

end Sys2Proof
end

