-- ==== Sys2Proof/Syntax.lean ====
section
/-! DEFINITION. The instruction set: one constructor per row of spec/opcode_table.json (30_encoding.md R65), its
arguments the fields the row's format gives it (R61, R62). The two fields the decoder does not look at (R67) are
kept as arguments, so that a word and its instruction determine each other; no meaning reads them. -/

namespace Sys2Proof

/-- The 34 instructions, in the order of 30_encoding.md R65. -/
inductive Instr where
  /-- 00E0 CLS (43_display.md R140). -/
  | cls
  /-- 00EE RET (40_control.md R100). -/
  | ret
  /-- 1NNN JP NNN (40_control.md R101). -/
  | jp (nnn : BitVec 12)
  /-- 2NNN CALL NNN (40_control.md R102). -/
  | call (nnn : BitVec 12)
  /-- 3XNN SE Vx,NN (40_control.md R104). -/
  | seVxNn (x : Reg) (nn : Byte)
  /-- 4XNN SNE Vx,NN (40_control.md R105). -/
  | sneVxNn (x : Reg) (nn : Byte)
  /-- 5XYN SE Vx,Vy, `n` not decoded (40_control.md R106). -/
  | seVxVy (x y : Reg) (n : BitVec 4)
  /-- 6XNN LD Vx,NN (41_load_alu.md R110). -/
  | ldVxNn (x : Reg) (nn : Byte)
  /-- 7XNN ADD Vx,NN (41_load_alu.md R111). -/
  | addVxNn (x : Reg) (nn : Byte)
  /-- 8XY0 LD Vx,Vy (41_load_alu.md R112). -/
  | ldVxVy (x y : Reg)
  /-- 8XY1 OR Vx,Vy (41_load_alu.md R113). -/
  | orVxVy (x y : Reg)
  /-- 8XY2 AND Vx,Vy (41_load_alu.md R114). -/
  | andVxVy (x y : Reg)
  /-- 8XY3 XOR Vx,Vy (41_load_alu.md R115). -/
  | xorVxVy (x y : Reg)
  /-- 8XY4 ADD Vx,Vy (41_load_alu.md R116). -/
  | addVxVy (x y : Reg)
  /-- 8XY5 SUB Vx,Vy (41_load_alu.md R117). -/
  | subVxVy (x y : Reg)
  /-- 8XY6 SHR Vx, `y` not decoded (41_load_alu.md R118). -/
  | shrVx (x y : Reg)
  /-- 8XY7 SUBN Vx,Vy (41_load_alu.md R119). -/
  | subnVxVy (x y : Reg)
  /-- 8XYE SHL Vx, `y` not decoded (41_load_alu.md R120). -/
  | shlVx (x y : Reg)
  /-- 9XYN SNE Vx,Vy, `n` not decoded (40_control.md R107). -/
  | sneVxVy (x y : Reg) (n : BitVec 4)
  /-- ANNN LD I,NNN (42_address_memory.md R130). -/
  | ldINnn (nnn : BitVec 12)
  /-- BNNN JP V0,NNN (40_control.md R103). -/
  | jpV0Nnn (nnn : BitVec 12)
  /-- CXNN RND Vx,NN (41_load_alu.md R123). -/
  | rndVxNn (x : Reg) (nn : Byte)
  /-- DXYN DRW Vx,Vy,N (43_display.md R141). -/
  | drw (x y : Reg) (n : BitVec 4)
  /-- EX9E SKP Vx (44_input_timers.md R151). -/
  | skpVx (x : Reg)
  /-- EXA1 SKNP Vx (44_input_timers.md R152). -/
  | sknpVx (x : Reg)
  /-- FX07 LD Vx,DT (44_input_timers.md R154). -/
  | ldVxDt (x : Reg)
  /-- FX0A LD Vx,K (44_input_timers.md R153). -/
  | ldVxK (x : Reg)
  /-- FX15 LD DT,Vx (44_input_timers.md R155). -/
  | ldDtVx (x : Reg)
  /-- FX18 LD ST,Vx (44_input_timers.md R156). -/
  | ldStVx (x : Reg)
  /-- FX1E ADD I,Vx (42_address_memory.md R131). -/
  | addIVx (x : Reg)
  /-- FX29 LD F,Vx (42_address_memory.md R132). -/
  | ldFVx (x : Reg)
  /-- FX33 LD B,Vx (42_address_memory.md R133). -/
  | ldBVx (x : Reg)
  /-- FX55 LD [I],Vx (42_address_memory.md R134). -/
  | ldMemVx (x : Reg)
  /-- FX65 LD Vx,[I] (42_address_memory.md R135). -/
  | ldVxMem (x : Reg)
deriving DecidableEq, Repr

end Sys2Proof
end

