-- ==== Sys2Proof/WellFormed.lean ====
section
/-! DEFINITION. Well-formed instructions. The types of the fields leave nothing out of range (30_encoding.md R63,
10_state.md R20), so the one thing left to check is that the bits the decoder ignores are the canonical ones:
op[3:0] = 0 in 5XYN and 9XYN (R64, R69), Y = 0 in 8XY6 and 8XYE (R67, R69). The machine runs every decoded
instruction, canonical or not (R67); the check only says which of them an assembler emits. -/

namespace Sys2Proof

/-- The undecoded bits of `i` are the canonical ones (30_encoding.md R67, R69). -/
def Instr.wellFormed : Instr → Bool
  | .seVxVy _ _ n => n == 0
  | .sneVxVy _ _ n => n == 0
  | .shrVx _ y => y == 0
  | .shlVx _ y => y == 0
  | .cls | .ret => true
  | .jp _ | .call _ | .ldINnn _ | .jpV0Nnn _ => true
  | .seVxNn _ _ | .sneVxNn _ _ | .ldVxNn _ _ | .addVxNn _ _ | .rndVxNn _ _ => true
  | .ldVxVy _ _ | .orVxVy _ _ | .andVxVy _ _ | .xorVxVy _ _ | .addVxVy _ _ | .subVxVy _ _ | .subnVxVy _ _ => true
  | .drw _ _ _ => true
  | .skpVx _ | .sknpVx _ => true
  | .ldVxDt _ | .ldVxK _ | .ldDtVx _ | .ldStVx _ | .addIVx _ | .ldFVx _ | .ldBVx _ | .ldMemVx _ | .ldVxMem _ => true

end Sys2Proof
end

