-- ==== Sys2Proof/Decode.lean ====
section
/-! DEFINITION. The decoder (30_encoding.md R60 to R67), total on any bytes and rejecting by name, and after it
the encoder, written from the same tables; then the opcode map of R65 as data. -/

namespace Sys2Proof

/-- Why bytes are no instruction. -/
inductive Reject where
  /-- Fewer than the two bytes of an instruction word (R60). -/
  | truncated
  /-- A word of family 0 other than 00E0 and 00EE (R66 a). -/
  | unknownFamily0 (op : Word)
  /-- A word of family 8 whose low nibble is no function code (R66 b). -/
  | unknownFamily8 (op : Word)
  /-- A word of family E whose low byte is no function code (R66 c). -/
  | unknownFamilyE (op : Word)
  /-- A word of family F whose low byte is no function code (R66 d). -/
  | unknownFamilyF (op : Word)
deriving DecidableEq, Repr

/-! The five derived fields and the family number (R61, R62). -/

/-- op[15:12], the family (R61). -/
def family (op : Word) : BitVec 4 := op.extractLsb' 12 4
/-- nnn = op[11:0] (R62). -/
def fieldNnn (op : Word) : BitVec 12 := op.extractLsb' 0 12
/-- nn = op[7:0] (R62). -/
def fieldNn (op : Word) : Byte := op.extractLsb' 0 8
/-- n = op[3:0] (R62). -/
def fieldN (op : Word) : BitVec 4 := op.extractLsb' 0 4
/-- X = op[11:8] (R62). -/
def fieldX (op : Word) : Reg := op.extractLsb' 8 4
/-- Y = op[7:4] (R62). -/
def fieldY (op : Word) : Reg := op.extractLsb' 4 4

/-- Family 0, matched on the whole word (R64). -/
def decodeFamily0 (op : Word) : Except Reject Instr :=
  if op = 0x00E0 then .ok .cls
  else if op = 0x00EE then .ok .ret
  else .error (.unknownFamily0 op)

/-- Family 8, matched on op[3:0] (R64). -/
def decodeFamily8 (op : Word) : Except Reject Instr :=
  match (fieldN op).toNat with
  | 0x0 => .ok (.ldVxVy (fieldX op) (fieldY op))
  | 0x1 => .ok (.orVxVy (fieldX op) (fieldY op))
  | 0x2 => .ok (.andVxVy (fieldX op) (fieldY op))
  | 0x3 => .ok (.xorVxVy (fieldX op) (fieldY op))
  | 0x4 => .ok (.addVxVy (fieldX op) (fieldY op))
  | 0x5 => .ok (.subVxVy (fieldX op) (fieldY op))
  | 0x6 => .ok (.shrVx (fieldX op) (fieldY op))
  | 0x7 => .ok (.subnVxVy (fieldX op) (fieldY op))
  | 0xE => .ok (.shlVx (fieldX op) (fieldY op))
  | _ => .error (.unknownFamily8 op)

/-- Family E, matched on op[7:0] (R64). -/
def decodeFamilyE (op : Word) : Except Reject Instr :=
  if fieldNn op = 0x9E then .ok (.skpVx (fieldX op))
  else if fieldNn op = 0xA1 then .ok (.sknpVx (fieldX op))
  else .error (.unknownFamilyE op)

/-- Family F, matched on op[7:0] (R64). -/
def decodeFamilyF (op : Word) : Except Reject Instr :=
  if fieldNn op = 0x07 then .ok (.ldVxDt (fieldX op))
  else if fieldNn op = 0x0A then .ok (.ldVxK (fieldX op))
  else if fieldNn op = 0x15 then .ok (.ldDtVx (fieldX op))
  else if fieldNn op = 0x18 then .ok (.ldStVx (fieldX op))
  else if fieldNn op = 0x1E then .ok (.addIVx (fieldX op))
  else if fieldNn op = 0x29 then .ok (.ldFVx (fieldX op))
  else if fieldNn op = 0x33 then .ok (.ldBVx (fieldX op))
  else if fieldNn op = 0x55 then .ok (.ldMemVx (fieldX op))
  else if fieldNn op = 0x65 then .ok (.ldVxMem (fieldX op))
  else .error (.unknownFamilyF op)

/-- Dispatch on the top four bits, with the second level in families 0, 8, E and F (R64, R65). -/
def decodeWord (op : Word) : Except Reject Instr :=
  match (family op).toNat with
  | 0x0 => decodeFamily0 op
  | 0x1 => .ok (.jp (fieldNnn op))
  | 0x2 => .ok (.call (fieldNnn op))
  | 0x3 => .ok (.seVxNn (fieldX op) (fieldNn op))
  | 0x4 => .ok (.sneVxNn (fieldX op) (fieldNn op))
  | 0x5 => .ok (.seVxVy (fieldX op) (fieldY op) (fieldN op))
  | 0x6 => .ok (.ldVxNn (fieldX op) (fieldNn op))
  | 0x7 => .ok (.addVxNn (fieldX op) (fieldNn op))
  | 0x8 => decodeFamily8 op
  | 0x9 => .ok (.sneVxVy (fieldX op) (fieldY op) (fieldN op))
  | 0xA => .ok (.ldINnn (fieldNnn op))
  | 0xB => .ok (.jpV0Nnn (fieldNnn op))
  | 0xC => .ok (.rndVxNn (fieldX op) (fieldNn op))
  | 0xD => .ok (.drw (fieldX op) (fieldY op) (fieldN op))
  | 0xE => decodeFamilyE op
  | _ => decodeFamilyF op

/-- The word stored at two bytes, the one at the lower address first (20_memory.md R41). -/
def wordOfBytes (hi lo : Byte) : Word := hi ++ lo

/-- The two bytes a word is stored as, the one at the lower address first (20_memory.md R41). -/
def bytesOfWord (op : Word) : List Byte := [op.extractLsb' 8 8, op.extractLsb' 0 8]

/-- The decoder on bytes: the instruction and the bytes after it (R60). -/
def decode : List Byte → Except Reject (Instr × List Byte)
  | hi :: lo :: rest =>
    match decodeWord (wordOfBytes hi lo) with
    | .ok i => .ok (i, rest)
    | .error e => .error e
  | _ => .error .truncated

/-! The encoder (R61, R65). -/

/-- A word of format NNN (R61). -/
def wordNnn (fam : BitVec 4) (nnn : BitVec 12) : Word := fam ++ nnn
/-- A word of format XNN or XFN (R61). -/
def wordXnn (fam : BitVec 4) (x : Reg) (nn : Byte) : Word := fam ++ x ++ nn
/-- A word of format XYN (R61). -/
def wordXyn (fam : BitVec 4) (x y : Reg) (n : BitVec 4) : Word := fam ++ x ++ y ++ n

/-- The instruction word of `i` (R65). -/
def encodeWord : Instr → Word
  | .cls => 0x00E0
  | .ret => 0x00EE
  | .jp nnn => wordNnn 0x1 nnn
  | .call nnn => wordNnn 0x2 nnn
  | .seVxNn x nn => wordXnn 0x3 x nn
  | .sneVxNn x nn => wordXnn 0x4 x nn
  | .seVxVy x y n => wordXyn 0x5 x y n
  | .ldVxNn x nn => wordXnn 0x6 x nn
  | .addVxNn x nn => wordXnn 0x7 x nn
  | .ldVxVy x y => wordXyn 0x8 x y 0x0
  | .orVxVy x y => wordXyn 0x8 x y 0x1
  | .andVxVy x y => wordXyn 0x8 x y 0x2
  | .xorVxVy x y => wordXyn 0x8 x y 0x3
  | .addVxVy x y => wordXyn 0x8 x y 0x4
  | .subVxVy x y => wordXyn 0x8 x y 0x5
  | .shrVx x y => wordXyn 0x8 x y 0x6
  | .subnVxVy x y => wordXyn 0x8 x y 0x7
  | .shlVx x y => wordXyn 0x8 x y 0xE
  | .sneVxVy x y n => wordXyn 0x9 x y n
  | .ldINnn nnn => wordNnn 0xA nnn
  | .jpV0Nnn nnn => wordNnn 0xB nnn
  | .rndVxNn x nn => wordXnn 0xC x nn
  | .drw x y n => wordXyn 0xD x y n
  | .skpVx x => wordXnn 0xE x 0x9E
  | .sknpVx x => wordXnn 0xE x 0xA1
  | .ldVxDt x => wordXnn 0xF x 0x07
  | .ldVxK x => wordXnn 0xF x 0x0A
  | .ldDtVx x => wordXnn 0xF x 0x15
  | .ldStVx x => wordXnn 0xF x 0x18
  | .addIVx x => wordXnn 0xF x 0x1E
  | .ldFVx x => wordXnn 0xF x 0x29
  | .ldBVx x => wordXnn 0xF x 0x33
  | .ldMemVx x => wordXnn 0xF x 0x55
  | .ldVxMem x => wordXnn 0xF x 0x65

/-- The two bytes of `i` (20_memory.md R41). -/
def encode (i : Instr) : List Byte := bytesOfWord (encodeWord i)

/-! The opcode map as data (R65): a word is a row's instruction iff its bits under the mask are the row's. -/

/-- One row of the opcode map: the number R65 gives it, its match and its mask. -/
structure OpcodeRow where
  number : Nat
  pattern : Word
  mask : Word
deriving DecidableEq, Repr

/-- `op AND mask = match` (R65). -/
def OpcodeRow.covers (row : OpcodeRow) (op : Word) : Bool := op &&& row.mask == row.pattern

/-- The row of 30_encoding.md R65 that an instruction belongs to. -/
def opcodeRow : Instr → OpcodeRow
  | .cls => ⟨1, 0x00E0, 0xFFFF⟩
  | .ret => ⟨2, 0x00EE, 0xFFFF⟩
  | .jp _ => ⟨3, 0x1000, 0xF000⟩
  | .call _ => ⟨4, 0x2000, 0xF000⟩
  | .seVxNn _ _ => ⟨5, 0x3000, 0xF000⟩
  | .sneVxNn _ _ => ⟨6, 0x4000, 0xF000⟩
  | .seVxVy _ _ _ => ⟨7, 0x5000, 0xF000⟩
  | .ldVxNn _ _ => ⟨8, 0x6000, 0xF000⟩
  | .addVxNn _ _ => ⟨9, 0x7000, 0xF000⟩
  | .ldVxVy _ _ => ⟨10, 0x8000, 0xF00F⟩
  | .orVxVy _ _ => ⟨11, 0x8001, 0xF00F⟩
  | .andVxVy _ _ => ⟨12, 0x8002, 0xF00F⟩
  | .xorVxVy _ _ => ⟨13, 0x8003, 0xF00F⟩
  | .addVxVy _ _ => ⟨14, 0x8004, 0xF00F⟩
  | .subVxVy _ _ => ⟨15, 0x8005, 0xF00F⟩
  | .shrVx _ _ => ⟨16, 0x8006, 0xF00F⟩
  | .subnVxVy _ _ => ⟨17, 0x8007, 0xF00F⟩
  | .shlVx _ _ => ⟨18, 0x800E, 0xF00F⟩
  | .sneVxVy _ _ _ => ⟨19, 0x9000, 0xF000⟩
  | .ldINnn _ => ⟨20, 0xA000, 0xF000⟩
  | .jpV0Nnn _ => ⟨21, 0xB000, 0xF000⟩
  | .rndVxNn _ _ => ⟨22, 0xC000, 0xF000⟩
  | .drw _ _ _ => ⟨23, 0xD000, 0xF000⟩
  | .skpVx _ => ⟨24, 0xE09E, 0xF0FF⟩
  | .sknpVx _ => ⟨25, 0xE0A1, 0xF0FF⟩
  | .ldVxDt _ => ⟨26, 0xF007, 0xF0FF⟩
  | .ldVxK _ => ⟨27, 0xF00A, 0xF0FF⟩
  | .ldDtVx _ => ⟨28, 0xF015, 0xF0FF⟩
  | .ldStVx _ => ⟨29, 0xF018, 0xF0FF⟩
  | .addIVx _ => ⟨30, 0xF01E, 0xF0FF⟩
  | .ldFVx _ => ⟨31, 0xF029, 0xF0FF⟩
  | .ldBVx _ => ⟨32, 0xF033, 0xF0FF⟩
  | .ldMemVx _ => ⟨33, 0xF055, 0xF0FF⟩
  | .ldVxMem _ => ⟨34, 0xF065, 0xF0FF⟩

/-! The host's reading of one row of spec/opcode_table.json. -/

/-- The word whose bits are the low `nbits` bits of `w`, bit 0 the least significant (every instruction is one
16-bit word, R60). -/
def tableWord (nbits w : Nat) : Word := BitVec.ofNat 16 (w % 2 ^ nbits)

/-- What the decoder reads from the instruction whose bits are `w`, laid out as the hardware stores it. -/
def decodeTableWord (nbits w : Nat) : Option Instr :=
  match decode (bytesOfWord (tableWord nbits w)) with
  | .ok (i, _) => some i
  | .error _ => none

end Sys2Proof
end

