-- ==== Sys2Proof/Config.lean ====
section
/-! DEFINITION. What is fixed for one machine (the parameters of 00_scope.md R5) and the FREE VALUES:
constants with no body, so that nothing proved about the model can rest on what they are (00_scope.md R6). -/

namespace Sys2Proof.Config

/-- MEM_SIZE (00_scope.md R5). -/
abbrev memSize : Nat := 4096

/-- PROG_BASE: the first byte of the program image and the reset value of pc (00_scope.md R5). -/
abbrev progBase : Nat := 512

/-- GLYPH_BYTES: the bytes of one font glyph (00_scope.md R5). -/
abbrev glyphBytes : Nat := 5

/-- MEM_INIT: what byte `a` of Memory outside the font holds at reset (10_state.md R36, U4): a free value for
every address (log 9; safe). -/
opaque memInit : Nat → Byte

/-- TICK_PERIOD (60_exceptions.md R172): a free constant (log 12; safe). -/
opaque tickPeriod : Nat

/-- The time of reset, to which the tick reference is set (10_state.md R36): a free value (log 12; safe). -/
opaque resetTime : Nat

/-- The key lines the environment presents the `n`-th time (10_state.md R34): free values (log 7). -/
opaque keyDown : Nat → BitVec 16

/-- The wall clock as sampled the `n`-th time (10_state.md R34): free values (log 7, log 12). -/
opaque now : Nat → Nat

/-- The byte the random source presents the `n`-th time (10_state.md R34, U3): free values (log 7). -/
opaque rnd : Nat → Byte

/-! After a fatal condition every piece of state but the fault record is unspecified (60_exceptions.md R167, U2).
These are its free values, at the `n`-th cycle (log 5; safe). -/

/-- The general registers after a fatal condition. -/
opaque lostX : Nat → Vector Byte 16
/-- The address register after a fatal condition. -/
opaque lostI : Nat → Word
/-- The program counter after a fatal condition. -/
opaque lostPc : Nat → Word
/-- The stack pointer after a fatal condition. -/
opaque lostSp : Nat → Fin 25
/-- The stack entries after a fatal condition. -/
opaque lostStack : Nat → Vector Word 24
/-- The delay timer after a fatal condition. -/
opaque lostDt : Nat → Byte
/-- The sound timer after a fatal condition. -/
opaque lostSt : Nat → Byte
/-- The display buffer after a fatal condition. -/
opaque lostFb : Nat → Vector (Vector Bool 64) 32
/-- The bytes written to Memory by the time of a fatal condition, as (address, byte) pairs. -/
opaque lostMem : Nat → List (Nat × Byte)
/-- The tick reference after a fatal condition. -/
opaque lostTickRef : Nat → Nat

end Sys2Proof.Config
end

