-- ==== Sys2Proof/Machine/Font.lean ====
section
/-! DEFINITION. The built-in font, which Memory holds at 0 to 79 at reset (20_memory.md R46, R47): glyph 0 is fixed,
glyphs 1 to F are an open configuration table with a default (00_scope.md R6, log 10). -/

namespace Sys2Proof.Machine

/-- FONT[5] to FONT[79]: the bytes of glyphs 1 to F, glyph `d` at `5 * d - 5` (20_memory.md R47). -/
abbrev Font := Vector Byte 75

/-- FONT[0] to FONT[4]: glyph 0, the one glyph the source document prints (20_memory.md R47). -/
def glyph0 : Vector Byte 5 := #v[0xF0, 0x90, 0x90, 0x90, 0xF0]

/-- The default of the configuration table: the spec's table of glyphs 1 to F (20_memory.md R47; PRESUMED there from
general knowledge, log 10). -/
def defaultFont : Font :=
  (#v[0x20, 0x60, 0x20, 0x20, 0x70,
      0xF0, 0x10, 0xF0, 0x80, 0xF0,
      0xF0, 0x10, 0xF0, 0x10, 0xF0,
      0x90, 0x90, 0xF0, 0x10, 0x10,
      0xF0, 0x80, 0xF0, 0x10, 0xF0,
      0xF0, 0x80, 0xF0, 0x90, 0xF0,
      0xF0, 0x10, 0x20, 0x40, 0x40] : Vector Byte 35) ++
  (#v[0xF0, 0x90, 0xF0, 0x90, 0xF0,
      0xF0, 0x90, 0xF0, 0x10, 0xF0,
      0xF0, 0x90, 0xF0, 0x90, 0x90,
      0xE0, 0x90, 0xE0, 0x90, 0xE0,
      0xF0, 0x80, 0x80, 0x80, 0xF0,
      0xE0, 0x90, 0x90, 0x90, 0xE0,
      0xF0, 0x80, 0xF0, 0x80, 0xF0,
      0xF0, 0x80, 0xF0, 0x80, 0x80] : Vector Byte 40)

/-- FONT[a] of the 80 bytes, nothing elsewhere (20_memory.md R46, R47). -/
def fontByte? (f : Font) (a : Nat) : Option Byte :=
  if h : a < 5 then some glyph0[a]
  else if h' : a < 80 then some (f[a - 5]'(by omega))
  else none

end Sys2Proof.Machine
end

