-- ==== Sys2Proof/Machine/State.lean ====
section
/-! DEFINITION. The machine's state as plain data (10_state.md), the reasons a step can stop, and the state after
reset (10_state.md R36). -/

namespace Sys2Proof.Machine

/-- The display-addressing policy (10_state.md R29). -/
inductive DisplayMode where
  | wrap
  | clamp
deriving DecidableEq, Repr

/-- The nine fatal conditions (60_exceptions.md R162). -/
inductive Cause where
  /-- Raised by the decoder: the word matches no row of the opcode map. -/
  | unknownOpcode
  /-- Raised by RET with `sp = 0`. -/
  | stackUnderflow
  /-- Raised by CALL with `sp = 24`. -/
  | stackOverflow
  /-- Raised by JP NNN to its own address. -/
  | jumpToSelf
  /-- Raised by the fetch at an address above 4094. -/
  | memRangeFetch
  /-- Raised by DRW and LD Vx,[I] reading an address above 4095. -/
  | memRangeRead
  /-- Raised by LD B,Vx and LD [I],Vx writing an address above 4095. -/
  | memRangeWrite
  /-- Raised by LD F,Vx with `x[X] > 15`. -/
  | fontIndexRange
  /-- Raised by SKP and SKNP with `x[X] > 15`. -/
  | keyIndexRange
deriving DecidableEq, Repr

/-- The bytes of Memory that differ from its reset contents: (address, byte) pairs, canonical when `Memory.wf` of
Machine/Ops.lean holds (log 9). -/
abbrev Memory := List Host.Cell

/-- The display buffer: 32 rows of 64 pixels, row 0 at the top and column 0 at the left (10_state.md R27). -/
abbrev Display := Vector (Vector Bool 64) 32

/-- Everything the spec gives the machine, then the model's own counter. -/
structure State where
  /-- The general registers x[0] to x[15]; x[15] is VF (10_state.md R20, R21). -/
  x : Vector Byte 16
  /-- The address register I (10_state.md R22). -/
  i : Word
  /-- The program counter (10_state.md R23). -/
  pc : Word
  /-- The stack pointer: the next free slot, 0 to 24 (10_state.md R25, log 14). -/
  sp : Fin 25
  /-- The call stack (10_state.md R25). -/
  stack : Vector Word 24
  /-- The delay timer (10_state.md R26). -/
  dt : Byte
  /-- The sound timer (10_state.md R26). -/
  st : Byte
  /-- The display buffer (10_state.md R27). -/
  fb : Display
  /-- Memory (10_state.md R28, 20_memory.md R40). -/
  mem : Memory
  /-- The time of the last tick (10_state.md R30, log 12). -/
  tickRef : Nat
  /-- The fault latch: 1 is the fatal state (10_state.md R31). -/
  halted : Bool
  /-- The fault record's cause code (60_exceptions.md R162). -/
  cause : BitVec 4
  /-- The fault record's address of the instruction that raised it (10_state.md R31). -/
  faultPc : Word
  /-- The fault record's information word (60_exceptions.md R162). -/
  faultInfo : Info
  /-- Strap: the display mode, held constant (10_state.md R29, log 11). -/
  mode : DisplayMode
  /-- Configuration table: FONT[5] to FONT[79], held constant (00_scope.md R6, 20_memory.md R47, log 10). -/
  font : Font
  /-- Constant of the timer gate: TICK_PERIOD (60_exceptions.md R172, log 12). -/
  tickPeriod : Nat
  /-- Input line: bit k is 1 iff key k is down in the coming cycle (10_state.md R34, log 7). -/
  keyDown : BitVec 16
  /-- Input line: the wall clock in the coming cycle (10_state.md R34, log 12). -/
  now : Nat
  /-- Input line: the byte the random source presents in the coming cycle (10_state.md R34, log 7). -/
  rnd : Byte
  /-- Output line: the last cycle emitted a beep (10_state.md R35, log 13). -/
  beep : Bool
  /-- The model's own: how many times the input lines were reloaded (log 8). -/
  cycle : Nat
deriving DecidableEq, Repr

/-- No step of this machine stops with a fault: every fatal condition of the spec is taken as 60_exceptions.md
R161 describes it, a next state in which the fault latch is set (log 4; safe). So this type has no
constructor, and nobody raises one. -/
inductive Fault
deriving DecidableEq, Repr

/-- Why an instruction has no meaning in the model. -/
inductive Refusal where
  /-- Raised by `exec`'s arm of an instruction that is not modelled yet (safe); no arm uses it now. -/
  | notModelled (mnemonic : String)
deriving DecidableEq, Repr

/-- The state after reset (10_state.md R36). The fault record (log 6), `beep` (log 13) and `cycle` (log 8) are the
model's choice; the input lines, the tick reference and the tick period are free values (log 7, log 12). -/
def State.reset : State where
  x := Vector.replicate 16 0
  i := 0
  pc := 0x0200
  sp := 0
  stack := Vector.replicate 24 0
  dt := 0
  st := 0
  fb := Vector.replicate 32 (Vector.replicate 64 false)
  mem := []
  tickRef := Config.resetTime
  halted := false
  cause := 0
  faultPc := 0
  faultInfo := 0
  mode := .clamp
  font := defaultFont
  tickPeriod := Config.tickPeriod
  keyDown := Config.keyDown 0
  now := Config.now 0
  rnd := Config.rnd 0
  beep := false
  cycle := 0

end Sys2Proof.Machine
end

