-- ==== Sys2Proof/Machine/Ops.lean ====
section
/-! DEFINITION. The named operations over memory, registers, stack, display and timers, taking a fatal condition,
the timer gate, the fetch, the reload of the input lines, and the program load. -/

namespace Sys2Proof.Machine

/-! ## Memory (20_memory.md) -/

/-- THE ONE definition of what an unlisted address reads as: the font's byte at 0 to 79, else the free launch value
MEM_INIT (10_state.md R36, 20_memory.md R46, log 9). -/
def Memory.unlisted (f : Font) (a : Nat) : Byte :=
  match fontByte? f a with
  | some b => b
  | none => Config.memInit a

/-- The byte listed for `a`, if one is. -/
def Memory.lookup : Memory → Nat → Option Byte
  | [], _ => none
  | (c, v) :: rest, a => if c = a then some v else Memory.lookup rest a

/-- The byte at address `a` (20_memory.md R40). -/
def Memory.peek (f : Font) (m : Memory) (a : Nat) : Byte :=
  match Memory.lookup m a with
  | some b => b
  | none => Memory.unlisted f a

/-- `m` without the entries of `a`. -/
def Memory.drop : Memory → Nat → Memory
  | [], _ => []
  | (c, v) :: rest, a => if c = a then Memory.drop rest a else (c, v) :: Memory.drop rest a

/-- `m` with `b` listed for `a`, in address order. -/
def Memory.put : Memory → Nat → Byte → Memory
  | [], a, b => [(a, b)]
  | (c, v) :: rest, a, b =>
    if a < c then (a, b) :: (c, v) :: rest
    else if a = c then (a, b) :: rest
    else (c, v) :: Memory.put rest a b

/-- `m` with byte `b` at address `a`, canonical if `m` is: a byte equal to the font's is not listed. -/
def Memory.poke (f : Font) (m : Memory) (a : Nat) (b : Byte) : Memory :=
  if fontByte? f a = some b then Memory.drop m a else Memory.put m a b

/-- The entries lie at or above `lo`, strictly rising, inside Memory, and none repeats the font's byte. -/
def Memory.wfFrom (f : Font) : Nat → Memory → Bool
  | _, [] => true
  | lo, (a, b) :: rest =>
    decide (lo ≤ a) && decide (a < Config.memSize) && decide (fontByte? f a ≠ some b) &&
      Memory.wfFrom f (a + 1) rest

/-- The canonical form of a memory (log 9). -/
def Memory.wf (f : Font) (m : Memory) : Bool := Memory.wfFrom f 0 m

/-- A canonical memory from pairs in any order; pairs outside Memory are left out. -/
def Memory.ofCells (f : Font) : List (Nat × Byte) → Memory
  | [] => []
  | (a, b) :: rest =>
    if a < Config.memSize then Memory.poke f (Memory.ofCells f rest) a b else Memory.ofCells f rest

/-! ## Fatal conditions (60_exceptions.md) -/

/-- The code of a cause (60_exceptions.md R162). -/
def Cause.code : Cause → BitVec 4
  | .unknownOpcode => 1
  | .stackUnderflow => 2
  | .stackOverflow => 3
  | .jumpToSelf => 4
  | .memRangeFetch => 5
  | .memRangeRead => 6
  | .memRangeWrite => 7
  | .fontIndexRange => 8
  | .keyIndexRange => 9

/-- A fatal condition about to be raised: its cause and its information word (60_exceptions.md R161). -/
structure Trap where
  cause : Cause
  info : Info
deriving DecidableEq, Repr

/-- Every piece of state that is unspecified after a fatal condition, replaced by free values
(60_exceptions.md R167, U2; log 5). -/
def forget (s : State) : State :=
  { s with
    x := Config.lostX s.cycle
    i := Config.lostI s.cycle
    pc := Config.lostPc s.cycle
    sp := Config.lostSp s.cycle
    stack := Config.lostStack s.cycle
    dt := Config.lostDt s.cycle
    st := Config.lostSt s.cycle
    fb := Config.lostFb s.cycle
    mem := Memory.ofCells s.font (Config.lostMem s.cycle)
    tickRef := Config.lostTickRef s.cycle }

/-- Entry to the fatal state (60_exceptions.md R161): the latch is set and the record written, `pc0` being the
address of the instruction; the rest of the state is unspecified (R167). -/
def raise (pc0 : Word) (t : Trap) (s : State) : State :=
  { forget s with halted := true, cause := t.cause.code, faultPc := pc0, faultInfo := t.info }

/-- The address of the instruction being executed: `pc` was advanced by 2 (10_state.md R23, 30_encoding.md R71). -/
def pc0 (s : State) : Word := s.pc - 2

/-- How an instruction ends: with the state it leaves, or by raising a fatal condition at its own address. -/
def complete (s : State) (r : Except Trap State) : Host.Outcome State Fault Refusal :=
  match r with
  | .ok t => .next t
  | .error e => .next (raise (pc0 s) e s)

/-! ## Memory access (20_memory.md R43, R44) -/

/-- The trap of an access to address `a`. -/
def rangeTrap (c : Cause) (a : Nat) : Trap := ⟨c, BitVec.ofNat 17 a⟩

/-- `MemRead(addr, 1)` (20_memory.md R43). -/
def memRead (f : Font) (m : Memory) (a : Nat) : Except Trap Byte :=
  if a > 4095 then .error (rangeTrap .memRangeRead a) else .ok (Memory.peek f m a)

/-- `MemWrite(addr, 1, v)` (20_memory.md R44). -/
def memWrite (f : Font) (m : Memory) (a : Nat) (v : Byte) : Except Trap Memory :=
  if a > 4095 then .error (rangeTrap .memRangeWrite a) else .ok (Memory.poke f m a v)

/-- `n` bytes read from `a` upward, one at a time, the first address out of range raised (20_memory.md R45). -/
def loadBytes (f : Font) (m : Memory) (a : Nat) : Nat → Except Trap (List Byte)
  | 0 => .ok []
  | n + 1 =>
    match memRead f m a with
    | .error e => .error e
    | .ok b =>
      match loadBytes f m (a + 1) n with
      | .error e => .error e
      | .ok bs => .ok (b :: bs)

/-- Bytes written from `a` upward, one at a time, the first address out of range raised (20_memory.md R45). -/
def storeBytes (f : Font) (m : Memory) (a : Nat) : List Byte → Except Trap Memory
  | [] => .ok m
  | b :: bs =>
    match memWrite f m a b with
    | .error e => .error e
    | .ok m' => storeBytes f m' (a + 1) bs

/-- The fetch's `MemRead(pc, 2)`, big-endian (20_memory.md R41, R43, 30_encoding.md R71). -/
def fetch (f : Font) (m : Memory) (pc : Word) : Except Trap Word :=
  if pc.toNat + 1 > 4095 then .error (rangeTrap .memRangeFetch pc.toNat)
  else .ok (wordOfBytes (Memory.peek f m pc.toNat) (Memory.peek f m (pc.toNat + 1)))

/-! ## Registers (10_state.md) -/

/-- The index of the flag register VF (10_state.md R21). -/
def vf : Reg := 15

/-- `x[r]` (10_state.md R20). -/
def reg (s : State) (r : Reg) : Byte := s.x[r.toNat]'r.isLt

/-- `x[r] <- v` (10_state.md R20). -/
def setReg (s : State) (r : Reg) (v : Byte) : State := { s with x := s.x.set r.toNat v r.isLt }

/-- A result and the flag: `x[r] <- v`, then `x[15] <- f` (10_state.md R24). -/
def setRegFlag (s : State) (r : Reg) (v f : Byte) : State := setReg (setReg s r v) vf f

/-- `x[k] <- bs[k]` for every k the list has (42_address_memory.md R135). -/
def setRegs (s : State) (bs : List Byte) : State :=
  { s with x := Vector.ofFn fun k => (bs[k.val]?).getD (s.x[k]) }

/-- `I <- v` (10_state.md R22). -/
def setIndex (s : State) (v : Word) : State := { s with i := v }

/-- `pc <- v` (10_state.md R23). -/
def setPc (s : State) (v : Word) : State := { s with pc := v }

/-- `pc <- pc + 2`, modulo 65536: the fetch's advance, and a taken skip (10_state.md R23, 40_control.md R104). -/
def advance (s : State) : State := setPc s (s.pc + 2)

/-- `dt <- v` (10_state.md R26). -/
def setDt (s : State) (v : Byte) : State := { s with dt := v }

/-- `st <- v` (10_state.md R26). -/
def setSt (s : State) (v : Byte) : State := { s with st := v }

/-- The display buffer replaced (10_state.md R27). -/
def setDisplay (s : State) (d : Display) : State := { s with fb := d }

/-- The byte of Memory at `a` (10_state.md R28). -/
def byteAt (s : State) (a : Nat) : Byte := Memory.peek s.font s.mem a

/-- Memory replaced (10_state.md R28). -/
def setMem (s : State) (m : Memory) : State := { s with mem := m }

/-! ## The call stack (10_state.md R25) -/

/-- `stack[sp] <- v; sp <- sp + 1`, or nothing if the stack is full. -/
def push (s : State) (v : Word) : Option State :=
  if h : s.sp.val < 24 then
    some { s with stack := s.stack.set s.sp.val v h, sp := ⟨s.sp.val + 1, by omega⟩ }
  else none

/-- `sp <- sp - 1`, with the entry `stack[sp]`, or nothing if the stack is empty. -/
def pop (s : State) : Option (Word × State) :=
  if h : 0 < s.sp.val then
    some (s.stack[s.sp.val - 1]'(by have := s.sp.isLt; omega),
      { s with sp := ⟨s.sp.val - 1, by have := s.sp.isLt; omega⟩ })
  else none

/-! ## The display buffer (43_display.md) -/

/-- Every pixel off (43_display.md R140). -/
def blank : Display := Vector.replicate 32 (Vector.replicate 64 false)

/-- `fb[r][c]` (10_state.md R27). -/
def pixel (d : Display) (r : Fin 32) (c : Fin 64) : Bool := d[r][c]

/-- `fb[r][c] <- fb[r][c] XOR 1` (43_display.md R141). -/
def toggle (d : Display) (r : Fin 32) (c : Fin 64) : Display := d.set r (d[r].set c (!d[r][c]))

/-- The pixel a sprite position falls on, or nothing where CLAMP abandons the row (43_display.md R141). The sums
are unbounded: no truncation to 8 bits (D10). -/
def target (mode : DisplayMode) (cx cy row col : Nat) : Option (Fin 32 × Fin 64) :=
  match mode with
  | .wrap => some (⟨(cy + row) % 32, Nat.mod_lt _ (by decide)⟩, ⟨(cx + col) % 64, Nat.mod_lt _ (by decide)⟩)
  | .clamp =>
    if h : cy + row < 32 ∧ cx + col < 64 then some (⟨cy + row, h.1⟩, ⟨cx + col, h.2⟩) else none

/-- One sprite row over the columns that are left: the buffer and the collision so far (43_display.md R141). -/
def drawCols (mode : DisplayMode) (cx cy row : Nat) (bits : Byte) : List Nat → Display × Bool → Display × Bool
  | [], acc => acc
  | col :: rest, acc =>
    if bits.getLsbD (7 - col) then
      match target mode cx cy row col with
      | none => acc
      | some (r, c) => drawCols mode cx cy row bits rest (toggle acc.1 r c, acc.2 || pixel acc.1 r c)
    else drawCols mode cx cy row bits rest acc

/-- The eight columns of a sprite row, most significant bit first (43_display.md R141). -/
def spriteCols : List Nat := [0, 1, 2, 3, 4, 5, 6, 7]

/-- The sprite rows that are left, from row number `row` on (43_display.md R141). -/
def drawRows (mode : DisplayMode) (cx cy : Nat) : Nat → List Byte → Display × Bool → Display × Bool
  | _, [], acc => acc
  | row, bits :: rest, acc =>
    drawRows mode cx cy (row + 1) rest (drawCols mode cx cy row bits spriteCols acc)

/-! ## Keys (44_input_timers.md R150) -/

/-- `key_down(k)` as sampled for this cycle. -/
def keyIsDown (s : State) (k : Nat) : Bool := s.keyDown.getLsbD k

/-- The smallest key code that is down, if one is (44_input_timers.md R153). -/
def lowestKey (s : State) : Option Nat := (List.range 16).find? fun k => keyIsDown s k

/-! ## The timer gate (60_exceptions.md R170) -/

/-- `now - tick_ref >= TICK_PERIOD`. -/
def tickDue (s : State) : Bool := decide (s.tickRef + s.tickPeriod ≤ s.now)

/-- One less, but 0 stays 0. -/
def countDown (v : Byte) : Byte := if v = 0 then 0 else v - 1

/-- Step 2 of the cycle: if a tick is due, each non-zero timer is decremented, `beep` is emitted if `st` was, and
the tick reference becomes `now` (60_exceptions.md R170, R171). -/
def tick (s : State) : State :=
  { s with
    dt := if tickDue s then countDown s.dt else s.dt
    st := if tickDue s then countDown s.st else s.st
    beep := tickDue s && decide (s.st ≠ 0)
    tickRef := if tickDue s then s.now else s.tickRef }

/-- A cycle of the fatal state: no state changes and no beep is emitted (60_exceptions.md R161). -/
def idle (s : State) : State := { s with beep := false }

/-! ## The environment (10_state.md R34, R196) -/

/-- Between two cycles the environment sets the input lines as it likes (10_state.md R34, log 7). -/
def sampleInputs (s : State) : State :=
  { s with
    keyDown := Config.keyDown (s.cycle + 1)
    now := Config.now (s.cycle + 1)
    rnd := Config.rnd (s.cycle + 1)
    cycle := s.cycle + 1 }

/-- Bytes placed in Memory from `a` upward, those above 4095 left out. -/
def Memory.pokes (f : Font) (m : Memory) (a : Nat) : List Byte → Memory
  | [] => m
  | b :: bs => Memory.pokes f (if a < Config.memSize then Memory.poke f m a b else m) (a + 1) bs

/-- The program loader, before the first cycle: byte `k` of the image at 512 + k; nothing for an image longer than
the remaining space (70_reset_and_hazards.md R196, 20_memory.md R48; log 15). -/
def loadProgram (image : List Byte) (s : State) : Option State :=
  if image.length ≤ 3584 then some (setMem s (Memory.pokes s.font s.mem Config.progBase image)) else none

/-- `s` with an instruction word where the next cycle fetches. The fetch needs a machine that is not halted and a
`pc` it can fetch from; both are left alone where they are so (log 15). -/
def placeWord (s : State) (op : Word) : State :=
  let pc := if s.pc.toNat + 1 > 4095 then 0x0200 else s.pc
  { s with pc := pc, halted := false, mem := Memory.pokes s.font s.mem pc.toNat (bytesOfWord op) }

end Sys2Proof.Machine
end

