-- ==== Sys2Proof/Machine/Cycle.lean ====
section
/-! DEFINITION. The cycle (30_encoding.md R70, R72), over a function that executes an instruction. -/

namespace Sys2Proof.Machine

/-- One cycle: nothing in the fatal state; else the timer gate, the fetch, the advance of `pc`, the decoder, the
instruction (30_encoding.md R72). -/
def cycle (run : Instr → State → Host.Outcome State Fault Refusal) (s : State) :
    Host.Outcome State Fault Refusal :=
  if s.halted then .next (idle s)
  else
    match fetch s.font s.mem s.pc with
    | .error e => .next (raise s.pc e (tick s))
    | .ok op =>
      match decodeWord op with
      | .error _ => .next (raise s.pc ⟨.unknownOpcode, op.setWidth 17⟩ (advance (tick s)))
      | .ok i => run i (advance (tick s))

/-- A cycle, and after it the environment's new input lines (10_state.md R34, log 7). -/
def cycleThenInputs (run : Instr → State → Host.Outcome State Fault Refusal) (s : State) :
    Host.Outcome State Fault Refusal :=
  match cycle run s with
  | .next t => .next (sampleInputs t)
  | .fault r => .fault r
  | .refused r => .refused r

end Sys2Proof.Machine
end

