-- ==== Sys2Proof/Machine/Flags.lean ====
section
/-! DEFINITION. The flag computations: what the seven flag-writing instructions put in VF (10_state.md R21 b,
41_load_alu.md R121). Each takes the old operand values. -/

namespace Sys2Proof.Machine

/-- A flag as the byte 0 or 1 (10_state.md R21 b). -/
def flagByte (b : Bool) : Byte := if b then 1 else 0

/-- ADD Vx,Vy: the sum is less than the added operand, that is, the addition carried (41_load_alu.md R116). -/
def carryFlag (a b : Byte) : Byte := flagByte (decide (a + b < b))

/-- SUB and SUBN: the minuend is strictly greater (41_load_alu.md R117, R119). -/
def greaterFlag (a b : Byte) : Byte := flagByte (decide (b < a))

/-- SHR: the bit shifted out, bit 0 (41_load_alu.md R118). -/
def lowBitFlag (a : Byte) : Byte := flagByte (a.getLsbD 0)

/-- SHL: the bit shifted out, bit 7 (41_load_alu.md R120). -/
def highBitFlag (a : Byte) : Byte := flagByte (a.getLsbD 7)

/-- ADD I,Vx: the new I is above 0x0FFF (42_address_memory.md R131). -/
def addressFlag (i : Word) : Byte := flagByte (decide (0x0FFF < i))

end Sys2Proof.Machine
end

