-- ==== Sys2Proof/Machine/Operands.lean ====
section
/-! DEFINITION. The operand forms (30_encoding.md R63): an address zero-extended to 16 bits, a register
zero-extended, a row count, the registers 0 to X. -/

namespace Sys2Proof.Machine

/-- `zext_16(nnn)` (30_encoding.md R63). -/
def addr16 (nnn : BitVec 12) : Word := nnn.setWidth 16

/-- `zext_16(x[r])` (40_control.md R103, 42_address_memory.md R131). -/
def reg16 (s : State) (r : Reg) : Word := (reg s r).setWidth 16

/-- x[0], x[1], ..., x[X]: the registers register-dump writes (42_address_memory.md R134). -/
def regsUpTo (s : State) (x : Reg) : List Byte := s.x.toList.take (x.toNat + 1)

/-- The effective address `I + 0`, from which the instruction's own offsets count without wrapping
(42_address_memory.md R136). -/
def base (s : State) : Nat := s.i.toNat

/-- The three decimal digits of a byte, hundreds first (42_address_memory.md R133). -/
def decimalDigits (a : Byte) : List Byte :=
  [BitVec.ofNat 8 (a.toNat / 100), BitVec.ofNat 8 (a.toNat / 10 % 10), BitVec.ofNat 8 (a.toNat % 10)]

/-- The address of the glyph of digit `a` (42_address_memory.md R132). -/
def glyphAddr (a : Byte) : Word := BitVec.ofNat 16 (Config.glyphBytes * a.toNat)

end Sys2Proof.Machine
end

