-- ==== Sys2Proof/Machine/AddressMemory.lean ====
section
/-! DEFINITION. Address register and memory instructions (42_address_memory.md). -/

namespace Sys2Proof.Machine

/-- LD I,NNN (42_address_memory.md R130). -/
def execLdINnn (nnn : BitVec 12) (s : State) : Host.Outcome State Fault Refusal :=
  .next (setIndex s (addr16 nnn))

/-- ADD I,Vx (42_address_memory.md R131). -/
def execAddIVx (x : Reg) (s : State) : Host.Outcome State Fault Refusal :=
  .next (setReg (setIndex s (s.i + reg16 s x)) vf (addressFlag (s.i + reg16 s x)))

/-- LD F,Vx (42_address_memory.md R132). -/
def execLdFVx (x : Reg) (s : State) : Host.Outcome State Fault Refusal :=
  complete s <|
    if (reg s x).toNat > 15 then .error ⟨.fontIndexRange, (reg s x).setWidth 17⟩
    else .ok (setIndex s (glyphAddr (reg s x)))

/-- LD B,Vx (42_address_memory.md R133). -/
def execLdBVx (x : Reg) (s : State) : Host.Outcome State Fault Refusal :=
  complete s <| (storeBytes s.font s.mem (base s) (decimalDigits (reg s x))).map (setMem s)

/-- LD [I],Vx (42_address_memory.md R134). -/
def execLdMemVx (x : Reg) (s : State) : Host.Outcome State Fault Refusal :=
  complete s <| (storeBytes s.font s.mem (base s) (regsUpTo s x)).map (setMem s)

/-- LD Vx,[I] (42_address_memory.md R135). -/
def execLdVxMem (x : Reg) (s : State) : Host.Outcome State Fault Refusal :=
  complete s <| (loadBytes s.font s.mem (base s) (x.toNat + 1)).map (setRegs s)

end Sys2Proof.Machine
end

