-- ==== Sys2Proof/Machine/Control.lean ====
section
/-! DEFINITION. Control transfer (40_control.md). Every meaning starts with `pc` at the address of the following
instruction (30_encoding.md R72). -/

namespace Sys2Proof.Machine

/-- A skip of one instruction width if the condition holds (40_control.md R104). -/
def skipIf (c : Bool) (s : State) : State := if c then advance s else s

/-- RET (40_control.md R100). -/
def execRet (s : State) : Host.Outcome State Fault Refusal :=
  complete s <|
    match pop s with
    | none => .error ⟨.stackUnderflow, 0⟩
    | some (v, t) => .ok (setPc t v)

/-- JP NNN (40_control.md R101). -/
def execJp (nnn : BitVec 12) (s : State) : Host.Outcome State Fault Refusal :=
  complete s <|
    if addr16 nnn = pc0 s then .error ⟨.jumpToSelf, nnn.setWidth 17⟩ else .ok (setPc s (addr16 nnn))

/-- CALL NNN (40_control.md R102). -/
def execCall (nnn : BitVec 12) (s : State) : Host.Outcome State Fault Refusal :=
  complete s <|
    match push s s.pc with
    | none => .error ⟨.stackOverflow, nnn.setWidth 17⟩
    | some t => .ok (setPc t (addr16 nnn))

/-- JP V0,NNN (40_control.md R103). -/
def execJpV0Nnn (nnn : BitVec 12) (s : State) : Host.Outcome State Fault Refusal :=
  .next (setPc s (reg16 s 0 + addr16 nnn))

/-- SE Vx,NN (40_control.md R104). -/
def execSeVxNn (x : Reg) (nn : Byte) (s : State) : Host.Outcome State Fault Refusal :=
  .next (skipIf (reg s x == nn) s)

/-- SNE Vx,NN (40_control.md R105). -/
def execSneVxNn (x : Reg) (nn : Byte) (s : State) : Host.Outcome State Fault Refusal :=
  .next (skipIf (reg s x != nn) s)

/-- SE Vx,Vy (40_control.md R106). -/
def execSeVxVy (x y : Reg) (s : State) : Host.Outcome State Fault Refusal :=
  .next (skipIf (reg s x == reg s y) s)

/-- SNE Vx,Vy (40_control.md R107). -/
def execSneVxVy (x y : Reg) (s : State) : Host.Outcome State Fault Refusal :=
  .next (skipIf (reg s x != reg s y) s)

end Sys2Proof.Machine
end

