-- ==== Sys2Proof/Machine/DisplayEngine.lean ====
section
/-! DEFINITION. The display engine (43_display.md). -/

namespace Sys2Proof.Machine

/-- CLS (43_display.md R140). -/
def execCls (s : State) : Host.Outcome State Fault Refusal :=
  .next (setDisplay s blank)

/-- The sprite drawn onto the buffer and the collision flag, both origin values read beforehand
(43_display.md R141, 10_state.md R24). -/
def blit (s : State) (cx cy : Byte) (sprite : List Byte) : State :=
  let out := drawRows s.mode cx.toNat cy.toNat 0 sprite (s.fb, false)
  setReg (setDisplay s out.1) vf (flagByte out.2)

/-- DRW Vx,Vy,N (43_display.md R141). Every row's byte is read, also of rows that CLAMP clips (D11). -/
def execDrw (x y : Reg) (n : BitVec 4) (s : State) : Host.Outcome State Fault Refusal :=
  complete s <| (loadBytes s.font s.mem (base s) n.toNat).map (blit s (reg s x) (reg s y))

end Sys2Proof.Machine
end

