-- ==== Sys2Proof/Machine/InputTimers.lean ====
section
/-! DEFINITION. Input and timer instructions (44_input_timers.md). -/

namespace Sys2Proof.Machine

/-- What SKP and SKNP share: the register's value must be a key code, then the skip is taken if the key's level is
`level` (44_input_timers.md R151, R152). -/
def skipOnKey (x : Reg) (level : Bool) (s : State) : Host.Outcome State Fault Refusal :=
  complete s <|
    if (reg s x).toNat > 15 then .error ⟨.keyIndexRange, (reg s x).setWidth 17⟩
    else .ok (skipIf (keyIsDown s (reg s x).toNat == level) s)

/-- SKP Vx (44_input_timers.md R151). -/
def execSkpVx (x : Reg) (s : State) : Host.Outcome State Fault Refusal := skipOnKey x true s

/-- SKNP Vx (44_input_timers.md R152). -/
def execSknpVx (x : Reg) (s : State) : Host.Outcome State Fault Refusal := skipOnKey x false s

/-- LD Vx,K (44_input_timers.md R153): with no key down the same word is fetched again. -/
def execLdVxK (x : Reg) (s : State) : Host.Outcome State Fault Refusal :=
  .next <|
    match lowestKey s with
    | none => setPc s (pc0 s)
    | some k => setReg s x (BitVec.ofNat 8 k)

/-- LD Vx,DT (44_input_timers.md R154). -/
def execLdVxDt (x : Reg) (s : State) : Host.Outcome State Fault Refusal :=
  .next (setReg s x s.dt)

/-- LD DT,Vx (44_input_timers.md R155). -/
def execLdDtVx (x : Reg) (s : State) : Host.Outcome State Fault Refusal :=
  .next (setDt s (reg s x))

/-- LD ST,Vx (44_input_timers.md R156). -/
def execLdStVx (x : Reg) (s : State) : Host.Outcome State Fault Refusal :=
  .next (setSt s (reg s x))

end Sys2Proof.Machine
end

