-- ==== Sys2Proof/Machine/LoadAlu.lean ====
section
/-! DEFINITION. Register loads and ALU (41_load_alu.md). Both operands are read before anything is written and the
flag is written last (10_state.md R24). -/

namespace Sys2Proof.Machine

/-- LD Vx,NN (41_load_alu.md R110). -/
def execLdVxNn (x : Reg) (nn : Byte) (s : State) : Host.Outcome State Fault Refusal :=
  .next (setReg s x nn)

/-- ADD Vx,NN (41_load_alu.md R111). -/
def execAddVxNn (x : Reg) (nn : Byte) (s : State) : Host.Outcome State Fault Refusal :=
  .next (setReg s x (reg s x + nn))

/-- LD Vx,Vy (41_load_alu.md R112). -/
def execLdVxVy (x y : Reg) (s : State) : Host.Outcome State Fault Refusal :=
  .next (setReg s x (reg s y))

/-- OR Vx,Vy (41_load_alu.md R113). -/
def execOrVxVy (x y : Reg) (s : State) : Host.Outcome State Fault Refusal :=
  .next (setReg s x (reg s x ||| reg s y))

/-- AND Vx,Vy (41_load_alu.md R114). -/
def execAndVxVy (x y : Reg) (s : State) : Host.Outcome State Fault Refusal :=
  .next (setReg s x (reg s x &&& reg s y))

/-- XOR Vx,Vy (41_load_alu.md R115). -/
def execXorVxVy (x y : Reg) (s : State) : Host.Outcome State Fault Refusal :=
  .next (setReg s x (reg s x ^^^ reg s y))

/-- ADD Vx,Vy (41_load_alu.md R116). -/
def execAddVxVy (x y : Reg) (s : State) : Host.Outcome State Fault Refusal :=
  .next (setRegFlag s x (reg s x + reg s y) (carryFlag (reg s x) (reg s y)))

/-- SUB Vx,Vy (41_load_alu.md R117). -/
def execSubVxVy (x y : Reg) (s : State) : Host.Outcome State Fault Refusal :=
  .next (setRegFlag s x (reg s x - reg s y) (greaterFlag (reg s x) (reg s y)))

/-- SHR Vx (41_load_alu.md R118). -/
def execShrVx (x : Reg) (s : State) : Host.Outcome State Fault Refusal :=
  .next (setRegFlag s x (reg s x >>> 1) (lowBitFlag (reg s x)))

/-- SUBN Vx,Vy (41_load_alu.md R119). -/
def execSubnVxVy (x y : Reg) (s : State) : Host.Outcome State Fault Refusal :=
  .next (setRegFlag s x (reg s y - reg s x) (greaterFlag (reg s y) (reg s x)))

/-- SHL Vx (41_load_alu.md R120). -/
def execShlVx (x : Reg) (s : State) : Host.Outcome State Fault Refusal :=
  .next (setRegFlag s x (reg s x <<< 1) (highBitFlag (reg s x)))

/-- RND Vx,NN (41_load_alu.md R123): the drawn byte is the random source's line (log 7). -/
def execRndVxNn (x : Reg) (nn : Byte) (s : State) : Host.Outcome State Fault Refusal :=
  .next (setReg s x (s.rnd &&& nn))

end Sys2Proof.Machine
end

