-- ==== Sys2Proof/Machine/Step.lean ====
section
/-! DEFINITION. One step: one cycle of 30_encoding.md R72 with `exec` as its last part; and the state in which the
next step runs a given word. -/

namespace Sys2Proof.Machine

/-- One step of the machine. -/
def step : State → Host.Outcome State Fault Refusal := cycleThenInputs exec

/-- `s` with the instruction whose bits are the low `nbits` bits of `w` where `step` fetches next (log 15). -/
def State.withFetchWord (s : State) (nbits w : Nat) : State := placeWord s (tableWord nbits w)

end Sys2Proof.Machine
end

