-- ==== Sys2Proof/Safety.lean ====
section
/-! DEFINITION. The terms claims are stated in: what an instruction keeps, what raising a fatal condition leaves,
what the next cycle fetches, and the invariant of a run. -/

namespace Sys2Proof.Safety

open Sys2Proof.Machine

/-- The kinds of state a frame speaks of. -/
inductive Part where
  | regs
  | index
  | pc
  | sp
  | stack
  | dt
  | st
  | display
  | memory
  | tickRef
  | latch
  | straps
  | beep
  | inputs
deriving DecidableEq, Repr

/-- The part is the same in both states; Memory through the read of every byte. -/
def Keeps (p : Part) (s t : State) : Prop :=
  match p with
  | .regs => ∀ r, reg t r = reg s r
  | .index => t.i = s.i
  | .pc => t.pc = s.pc
  | .sp => t.sp = s.sp
  | .stack => ∀ k : Fin 24, t.stack[k] = s.stack[k]
  | .dt => t.dt = s.dt
  | .st => t.st = s.st
  | .display => ∀ r c, pixel t.fb r c = pixel s.fb r c
  | .memory => ∀ a, byteAt t a = byteAt s a
  | .tickRef => t.tickRef = s.tickRef
  | .latch =>
    t.halted = s.halted ∧ t.cause = s.cause ∧ t.faultPc = s.faultPc ∧ t.faultInfo = s.faultInfo
  | .straps => t.mode = s.mode ∧ t.font = s.font ∧ t.tickPeriod = s.tickPeriod
  | .beep => t.beep = s.beep
  | .inputs => t.keyDown = s.keyDown ∧ t.now = s.now ∧ t.rnd = s.rnd ∧ t.cycle = s.cycle

/-- Every part but the named ones is the same. -/
def KeepsAllBut (ps : List Part) (s t : State) : Prop := ∀ p, p ∉ ps → Keeps p s t

/-- Every general register but the named ones is the same. -/
def KeepsRegsBut (rs : List Reg) (s t : State) : Prop := ∀ r, r ∉ rs → reg t r = reg s r

/-- `t` is `s` after an instruction of `s` raised the fatal condition with this code and information
(60_exceptions.md R161, R162): latch and record are set, straps, inputs and the beep output are kept; nothing is
said of the rest (R167). -/
def Raised (code : BitVec 4) (info : Nat) (s t : State) : Prop :=
  t.halted = true ∧ t.cause = code ∧ t.faultPc = s.pc - 2 ∧ t.faultInfo = BitVec.ofNat 17 info ∧
    Keeps .straps s t ∧ Keeps .inputs s t ∧ Keeps .beep s t

/-- The next cycle of `s` fetches the word `op` (30_encoding.md R71, R72). -/
def Fetches (s : State) (op : Word) : Prop :=
  s.halted = false ∧ s.pc.toNat ≤ 4094 ∧
    op = wordOfBytes (byteAt s s.pc.toNat) (byteAt s (s.pc.toNat + 1))

/-- What holds at reset and after every step: Memory is in its canonical form; while the machine is not in the
fatal state `pc` is one of the values 10_state.md R23 says it can reach and the live stack entries are among those
10_state.md R33 says CALL pushes; in the fatal state the cause is one of the nine codes of 60_exceptions.md R162. -/
structure Inv (s : State) : Prop where
  memory : Memory.wf s.font s.mem = true
  pcBound : s.halted = false → s.pc.toNat ≤ 0x10FE
  stackBound : s.halted = false → ∀ k : Fin 24, k.val < s.sp.val →
    2 ≤ (s.stack[k]).toNat ∧ (s.stack[k]).toNat ≤ 4096
  causeRange : s.halted = true → 1 ≤ s.cause.toNat ∧ s.cause.toNat ≤ 9

/-- `t` is `s` with `v` in register `x` and nothing else changed. -/
def WritesReg (x : Reg) (v : Byte) (s t : State) : Prop :=
  reg t x = v ∧ KeepsRegsBut [x] s t ∧ KeepsAllBut [.regs] s t

/-- `t` is `s` with `v` in register `x` and after it `flag`, as 0 or 1, in register 15 (10_state.md R24), and nothing
else changed: with x = 15 the flag is what stays. -/
def WritesRegThenFlag (x : Reg) (v : Byte) (flag : Prop) (s t : State) : Prop :=
  (x ≠ 15 → reg t x = v) ∧ ((flag ∧ reg t 15 = 1) ∨ (¬ flag ∧ reg t 15 = 0)) ∧
    KeepsRegsBut [x, 15] s t ∧ KeepsAllBut [.regs] s t

/-- `t` is `s` with `pc` one instruction width further if `taken`, and nothing else changed. -/
def SkipsWhen (taken : Prop) (s t : State) : Prop :=
  (taken → t.pc = s.pc + 2) ∧ (¬ taken → t.pc = s.pc) ∧ KeepsAllBut [.pc] s t

/-- The sprite position (`row`, `col`) of an origin (`cx`, `cy`) falls on the pixel (`r`, `c`): modulo the display's
size in WRAP mode; in CLAMP mode only where the sums lie inside the display (43_display.md R142). -/
def FallsOn (mode : DisplayMode) (cx cy row col : Nat) (r : Fin 32) (c : Fin 64) : Prop :=
  match mode with
  | .wrap => r.val = (cy + row) % 32 ∧ c.val = (cx + col) % 64
  | .clamp => r.val = cy + row ∧ c.val = cx + col

/-- A set bit of the sprite that `DRW Vx,Vy,n` draws in `s` falls on the pixel (`r`, `c`) (43_display.md R142). -/
def SpriteHits (s : State) (x y : Reg) (n : BitVec 4) (r : Fin 32) (c : Fin 64) : Prop :=
  ∃ row col, row < n.toNat ∧ col < 8 ∧ (byteAt s (s.i.toNat + row)).getLsbD (7 - col) = true ∧
    FallsOn s.mode (reg s x).toNat (reg s y).toNat row col r c

/-- The code and the information of the fatal condition that `i`, executed in `s`, meets, if it meets one: the table
of 60_exceptions.md R162 with the lowest failing address first (R164), for the causes of instructions. -/
def fatalOf (i : Instr) (s : State) : Option (BitVec 4 × Nat) :=
  match i with
  | .ret => if s.sp.val = 0 then some (2, 0) else none
  | .call nnn => if s.sp.val = 24 then some (3, nnn.toNat) else none
  | .jp nnn => if nnn.toNat = (s.pc - 2).toNat then some (4, nnn.toNat) else none
  | .drw _ _ n => if n.toNat ≠ 0 ∧ 4095 < s.i.toNat + (n.toNat - 1) then some (6, max s.i.toNat 4096) else none
  | .ldVxMem x => if 4095 < s.i.toNat + x.toNat then some (6, max s.i.toNat 4096) else none
  | .ldBVx _ => if 4095 < s.i.toNat + 2 then some (7, max s.i.toNat 4096) else none
  | .ldMemVx x => if 4095 < s.i.toNat + x.toNat then some (7, max s.i.toNat 4096) else none
  | .ldFVx x => if 15 < (reg s x).toNat then some (8, (reg s x).toNat) else none
  | .skpVx x => if 15 < (reg s x).toNat then some (9, (reg s x).toNat) else none
  | .sknpVx x => if 15 < (reg s x).toNat then some (9, (reg s x).toNat) else none
  | .cls | .jpV0Nnn _ | .ldINnn _ => none
  | .seVxNn _ _ | .sneVxNn _ _ | .seVxVy _ _ _ | .sneVxVy _ _ _ => none
  | .ldVxNn _ _ | .addVxNn _ _ | .rndVxNn _ _ => none
  | .ldVxVy _ _ | .orVxVy _ _ | .andVxVy _ _ | .xorVxVy _ _ | .addVxVy _ _ | .subVxVy _ _ | .shrVx _ _ => none
  | .subnVxVy _ _ | .shlVx _ _ => none
  | .ldVxDt _ | .ldVxK _ | .ldDtVx _ | .ldStVx _ | .addIVx _ => none

/-- The parts of the state `i` may write when it raises nothing: the writes and memory columns of 30_encoding.md
R68, beside the fetch's advance of `pc`. -/
def partsWritten (i : Instr) : List Part :=
  match i with
  | .cls => [.display]
  | .ret => [.sp, .pc]
  | .jp _ => [.pc]
  | .call _ => [.stack, .sp, .pc]
  | .seVxNn _ _ | .sneVxNn _ _ | .seVxVy _ _ _ | .sneVxVy _ _ _ => [.pc]
  | .ldVxNn _ _ | .addVxNn _ _ | .rndVxNn _ _ => [.regs]
  | .ldVxVy _ _ | .orVxVy _ _ | .andVxVy _ _ | .xorVxVy _ _ | .addVxVy _ _ | .subVxVy _ _ | .shrVx _ _ => [.regs]
  | .subnVxVy _ _ | .shlVx _ _ => [.regs]
  | .ldINnn _ => [.index]
  | .jpV0Nnn _ => [.pc]
  | .drw _ _ _ => [.regs, .display]
  | .skpVx _ | .sknpVx _ => [.pc]
  | .ldVxDt _ => [.regs]
  | .ldVxK _ => [.regs, .pc]
  | .ldDtVx _ => [.dt]
  | .ldStVx _ => [.st]
  | .addIVx _ => [.index, .regs]
  | .ldFVx _ => [.index]
  | .ldBVx _ => [.memory]
  | .ldMemVx _ => [.memory]
  | .ldVxMem _ => [.regs]

/-- One of the seven instructions that write VF as a side effect (10_state.md R21 b). -/
def writesFlag (i : Instr) : Bool :=
  match i with
  | .addVxVy _ _ | .subVxVy _ _ | .shrVx _ _ | .subnVxVy _ _ | .shlVx _ _ | .drw _ _ _ | .addIVx _ => true
  | .cls | .ret | .jp _ | .call _ | .jpV0Nnn _ | .ldINnn _ => false
  | .seVxNn _ _ | .sneVxNn _ _ | .seVxVy _ _ _ | .sneVxVy _ _ _ => false
  | .ldVxNn _ _ | .addVxNn _ _ | .rndVxNn _ _ => false
  | .ldVxVy _ _ | .orVxVy _ _ | .andVxVy _ _ | .xorVxVy _ _ => false
  | .skpVx _ | .sknpVx _ | .ldVxDt _ | .ldVxK _ | .ldDtVx _ | .ldStVx _ | .ldFVx _ | .ldBVx _ => false
  | .ldMemVx _ | .ldVxMem _ => false

/-- The X field of an instruction that has one (30_encoding.md R61). -/
def fieldXOf (i : Instr) : Option Reg :=
  match i with
  | .cls | .ret | .jp _ | .call _ | .jpV0Nnn _ | .ldINnn _ => none
  | .seVxNn x _ | .sneVxNn x _ | .seVxVy x _ _ | .sneVxVy x _ _ => some x
  | .ldVxNn x _ | .addVxNn x _ | .rndVxNn x _ => some x
  | .ldVxVy x _ | .orVxVy x _ | .andVxVy x _ | .xorVxVy x _ | .addVxVy x _ | .subVxVy x _ | .shrVx x _ => some x
  | .subnVxVy x _ | .shlVx x _ | .drw x _ _ => some x
  | .skpVx x | .sknpVx x | .ldVxDt x | .ldVxK x | .ldDtVx x | .ldStVx x | .addIVx x | .ldFVx x | .ldBVx x => some x
  | .ldMemVx x | .ldVxMem x => some x

end Sys2Proof.Safety
end

