-- ==== Sys2Proof/Certificates/Slice0/Obligations.lean ====
section
/-! DEFINITION. The statements for the provers, from the numbered rules of spec/. Where a statement rests on a
decision the spec marks as its own, its docstring says so. -/

section

open Sys2Proof Sys2Proof.Machine Sys2Proof.Safety

/-! ## Encoding (30_encoding.md). The opcode values and field positions are the spec's decisions D1 and D2. -/

/-- Decoding an encoded instruction gives it back, every operand at every value, on words and on bytes
(30_encoding.md R61, R62, R65; decisions D1, D2). -/
def Obligations.DecodeOfEncodeIsTheInstruction : Prop :=
  ∀ (i : Instr) (rest : List Byte),
    decodeWord (encodeWord i) = .ok i ∧ decode (encode i ++ rest) = .ok (i, rest)

/-- A word that decodes is the encoding of its instruction: no bit of a word is dropped (30_encoding.md R61, R62,
R67; decisions D1, D2). -/
def Obligations.EncodeOfDecodeIsTheWord : Prop :=
  ∀ (op : Word) (i : Instr), decodeWord op = .ok i → encodeWord i = op

/-- A word is an instruction iff its bits under the mask of that instruction's row are the row's match
(30_encoding.md R65; decisions D1, D3, D4). -/
def Obligations.DecoderFollowsOpcodeMap : Prop :=
  ∀ (op : Word),
    (∀ i, decodeWord op = .ok i → (opcodeRow i).covers op = true) ∧
    (∀ j, (opcodeRow j).covers op = true → ∃ i, decodeWord op = .ok i ∧ opcodeRow i = opcodeRow j)

/-- The unknown words are exactly the four groups of 30_encoding.md R66 (decisions D1, D3). -/
def Obligations.UnknownWordsAreTheFourGroups : Prop :=
  ∀ (op : Word),
    (∃ e, decodeWord op = .error e) ↔
      (op.toNat / 4096 = 0 ∧ op.toNat ≠ 0x00E0 ∧ op.toNat ≠ 0x00EE) ∨
      (op.toNat / 4096 = 8 ∧ op.toNat % 16 ∈ [0x8, 0x9, 0xA, 0xB, 0xC, 0xD, 0xF]) ∨
      (op.toNat / 4096 = 14 ∧ op.toNat % 256 ∉ [0x9E, 0xA1]) ∨
      (op.toNat / 4096 = 15 ∧ op.toNat % 256 ∉ [0x07, 0x0A, 0x15, 0x18, 0x1E, 0x29, 0x33, 0x55, 0x65])

/-- A few words read as 95_test_vectors.md Part 3 reads them, one of each format at least (decisions D1, D2). -/
def Obligations.SampleWordsDecode : Prop :=
  decodeWord 0x00E0 = .ok .cls ∧ decodeWord 0x00EE = .ok .ret ∧ decodeWord 0x1ABC = .ok (.jp 0xABC) ∧
  decodeWord 0x3A7F = .ok (.seVxNn 0xA 0x7F) ∧ decodeWord 0x5AB7 = .ok (.seVxVy 0xA 0xB 0x7) ∧
  decodeWord 0x8AB4 = .ok (.addVxVy 0xA 0xB) ∧ decodeWord 0xB123 = .ok (.jpV0Nnn 0x123) ∧
  decodeWord 0xC5F0 = .ok (.rndVxNn 0x5 0xF0) ∧ decodeWord 0xD12F = .ok (.drw 0x1 0x2 0xF) ∧
  decodeWord 0xE59E = .ok (.skpVx 0x5) ∧ decodeWord 0xF51E = .ok (.addIVx 0x5) ∧
  decodeWord 0xFE65 = .ok (.ldVxMem 0xE) ∧ decodeWord 0x65F5 = .ok (.ldVxNn 0x5 0xF5) ∧
  decodeWord 0x8AB9 = .error (.unknownFamily8 0x8AB9) ∧ decodeWord 0xE59F = .error (.unknownFamilyE 0xE59F)

/-! ## The cycle (30_encoding.md R72) -/

/-- When the word at `pc` decodes to `i`, the step is the timer gate, the advance of `pc` by 2, the instruction, and
then the environment's new input lines (30_encoding.md R70 to R72; the last part is the model's, log 7). -/
def Obligations.StepRunsTheDecodedInstruction : Prop :=
  ∀ (s : State) (op : Word) (i : Instr), Fetches s op → decodeWord op = .ok i →
    (∀ t, exec i (advance (tick s)) = .next t → step s = .next (sampleInputs t)) ∧
    (advance (tick s)).pc = s.pc + 2 ∧ KeepsAllBut [.pc] (tick s) (advance (tick s))

/-- An unknown word is fatal in the cycle that fetches it: cause 1, the word recorded (30_encoding.md R66, R72;
60_exceptions.md R161, R162: latch, record and codes are the spec's decision D19). -/
def Obligations.UnknownWordIsFatal : Prop :=
  ∀ (s : State) (op : Word), Fetches s op → (∃ e, decodeWord op = .error e) →
    ∃ t, step s = .next t ∧ t.halted = true ∧ t.cause = 1 ∧ t.faultPc = s.pc ∧ t.faultInfo.toNat = op.toNat

/-- A fetch that needs a byte above 4095 is fatal: cause 5, the address recorded (30_encoding.md R71; 60_exceptions.md
R162; decisions D19, D26). -/
def Obligations.FetchBeyondMemoryIsFatal : Prop :=
  ∀ (s : State), s.halted = false → 4094 < s.pc.toNat →
    ∃ t, step s = .next t ∧ t.halted = true ∧ t.cause = 5 ∧ t.faultPc = s.pc ∧ t.faultInfo.toNat = s.pc.toNat

/-- In the fatal state every cycle is the empty transition, however many are run: no tick, no fetch, no beep, the
record kept (60_exceptions.md R161, 30_encoding.md R72 step 1; the latch is the spec's decision D19). -/
def Obligations.FatalStateIsForever : Prop :=
  ∀ (n : Nat) (s : State), s.halted = true →
    ∃ t, Host.Core.run core n s = .next t ∧ KeepsAllBut [.beep, .inputs] s t ∧ (0 < n → t.beep = false)

/-- Every step answers a next state: no instruction, word, operand or input stops the model (00_scope.md R11: a run
ends only in the fatal state; the fatal state as a next state is the model's choice, log 4). -/
def Obligations.EveryStepAnswersANextState : Prop :=
  ∀ s : State, ∃ t, step s = .next t

/-- The tick (60_exceptions.md R170): if the period has elapsed each non-zero timer is decremented by one, a timer at
0 stays 0, and the reference becomes the time of the cycle; else nothing changes. -/
def Obligations.TickDecrementsEachTimerOnce : Prop :=
  ∀ s : State,
    (s.tickRef + s.tickPeriod ≤ s.now →
      (tick s).dt.toNat = s.dt.toNat - 1 ∧ (tick s).st.toNat = s.st.toNat - 1 ∧
        ((tick s).beep = true ↔ s.st ≠ 0) ∧ (tick s).tickRef = s.now) ∧
    (s.now < s.tickRef + s.tickPeriod →
      (tick s).dt = s.dt ∧ (tick s).st = s.st ∧ (tick s).beep = false ∧ (tick s).tickRef = s.tickRef) ∧
    KeepsAllBut [.dt, .st, .beep, .tickRef] s (tick s)

/-- The beep output is asserted in exactly the cycles whose tick decrements the sound timer (60_exceptions.md R171),
whatever the cycle executes; not in a cycle of the fatal state. -/
def Obligations.BeepMarksEachSoundTimerDecrement : Prop :=
  ∀ s t : State, step s = .next t →
    (t.beep = true ↔ s.halted = false ∧ s.tickRef + s.tickPeriod ≤ s.now ∧ s.st ≠ 0)

/-- The timers are never incremented except by their load instructions (10_state.md R26), in a cycle that does not
end in the fatal state. -/
def Obligations.TimersRiseOnlyByLoads : Prop :=
  ∀ (s t : State) (op : Word), Fetches s op → step s = .next t → t.halted = false →
    ((∀ x, decodeWord op ≠ .ok (.ldDtVx x)) → t.dt.toNat ≤ s.dt.toNat) ∧
    ((∀ x, decodeWord op ≠ .ok (.ldStVx x)) → t.st.toNat ≤ s.st.toNat)

/-- No step changes the display-mode strap, the font table or the tick period (10_state.md R29, 00_scope.md R6). -/
def Obligations.StrapsAreFixedForTheRun : Prop :=
  ∀ s t : State, step s = .next t → t.mode = s.mode ∧ t.font = s.font ∧ t.tickPeriod = s.tickPeriod

/-! ## Reset, loading, memory -/

/-- The state after reset (10_state.md R36, 70_reset_and_hazards.md R191). I, sp, the stack entries and the display
are the spec's decision D23; mode and glyphs 1 to F are at the defaults of the strap and of the configuration table
(log 11, log 10), and whatever the table is, Memory holds glyph 0 and the table at 0 to 79; the rest of Memory is the
free launch value (log 9). The fault record, which the spec leaves unspecified there, is not spoken of. -/
def Obligations.ResetIsTheStateTheSpecGives : Prop :=
  (∀ r, reg State.reset r = 0) ∧ State.reset.i = 0 ∧ State.reset.pc = 512 ∧ State.reset.sp.val = 0 ∧
  (∀ k : Fin 24, State.reset.stack[k] = 0) ∧ State.reset.dt = 0 ∧ State.reset.st = 0 ∧
  (∀ r c, pixel State.reset.fb r c = false) ∧ State.reset.halted = false ∧ State.reset.mode = .clamp ∧
  State.reset.tickRef = Config.resetTime ∧
  State.reset.font = defaultFont ∧
  (∀ (f : Font) (a : Nat),
    (∀ h : a < 5, byteAt { State.reset with font := f } a = glyph0[a]) ∧
    (∀ h : a < 75, byteAt { State.reset with font := f } (5 + a) = f[a]) ∧
    (80 ≤ a → byteAt { State.reset with font := f } a = Config.memInit a))

/-- The loader puts byte k of an image of at most 3584 bytes at 512 + k and changes nothing else; it does not take a
longer image (70_reset_and_hazards.md R196, 20_memory.md R48; decision D28; how a longer image is turned away is the
model's, log 15). -/
def Obligations.LoaderPlacesTheImage : Prop :=
  ∀ (image : List Byte) (s : State),
    (image.length ≤ 3584 → ∃ t, loadProgram image s = some t ∧
      (∀ k, (h : k < image.length) → byteAt t (512 + k) = image[k]) ∧
      (∀ a, a < 512 ∨ 512 + image.length ≤ a → byteAt t a = byteAt s a) ∧
      KeepsAllBut [.memory] s t) ∧
    (3584 < image.length → loadProgram image s = none)

/-- A write changes its byte and no other, at every address 0 to 4095; above, the write is fatal with its address
recorded, and nothing is written (20_memory.md R44). -/
def Obligations.WriteChangesItsByteOnly : Prop :=
  ∀ (f : Font) (m : Memory) (a : Nat) (v : Byte),
    (a ≤ 4095 → ∃ m', memWrite f m a v = .ok m' ∧ Memory.peek f m' a = v ∧
      ∀ c, c ≠ a → Memory.peek f m' c = Memory.peek f m c) ∧
    (4095 < a → memWrite f m a v = .error ⟨.memRangeWrite, BitVec.ofNat 17 a⟩)

/-- A read of one byte answers the byte, the fetch's read of two answers them with the one at the lower address first,
each only if its last byte lies at 0 to 4095; else it is fatal with the kind of access and the address recorded
(20_memory.md R43). No read changes Memory. -/
def Obligations.ReadsAreCheckedAgainstTheLastByte : Prop :=
  ∀ (f : Font) (m : Memory) (a : Nat) (p : Word),
    (a ≤ 4095 → memRead f m a = .ok (Memory.peek f m a)) ∧
    (4095 < a → memRead f m a = .error ⟨.memRangeRead, BitVec.ofNat 17 a⟩) ∧
    (p.toNat + 1 ≤ 4095 → ∃ op, fetch f m p = .ok op ∧
      op.toNat = 256 * (Memory.peek f m p.toNat).toNat + (Memory.peek f m (p.toNat + 1)).toNat) ∧
    (4095 < p.toNat + 1 → fetch f m p = .error ⟨.memRangeFetch, BitVec.ofNat 17 p.toNat⟩)

/-- The invariant holds at reset (10_state.md R36). -/
def Obligations.InvariantHoldsAtReset : Prop := Inv State.reset

/-- Every step keeps the invariant: Memory stays in its canonical form (log 9), `pc` and the live stack entries stay
within what 10_state.md R23 and R33 derive, the cause of a fatal state is one of the nine codes. -/
def Obligations.StepKeepsInvariant : Prop :=
  ∀ s t : State, Inv s → step s = .next t → Inv t

/-! ## Control transfer (40_control.md) -/

/-- RET pops the last return address into `pc`, used as it is; with an empty stack it is fatal (40_control.md R100;
the fatal record is the spec's decision D19). -/
def Obligations.ReturnPopsIntoPc : Prop :=
  ∀ s : State,
    (0 < s.sp.val → ∃ t, exec .ret s = .next t ∧ t.sp.val = s.sp.val - 1 ∧
      (∀ k : Fin 24, k.val = s.sp.val - 1 → t.pc = s.stack[k]) ∧ KeepsAllBut [.sp, .pc] s t) ∧
    (s.sp.val = 0 → ∃ t, exec .ret s = .next t ∧ Raised 2 0 s t)

/-- JP NNN goes to NNN, zero-extended; a jump to its own address is fatal (40_control.md R101; the fatal record is
the spec's decision D19). -/
def Obligations.JumpGoesToItsTarget : Prop :=
  ∀ (s : State) (nnn : BitVec 12),
    (nnn.toNat ≠ (s.pc - 2).toNat → ∃ t, exec (.jp nnn) s = .next t ∧ t.pc.toNat = nnn.toNat ∧
      KeepsAllBut [.pc] s t) ∧
    (nnn.toNat = (s.pc - 2).toNat → ∃ t, exec (.jp nnn) s = .next t ∧ Raised 4 nnn.toNat s t)

/-- CALL NNN pushes the advanced `pc` and goes to NNN; with 24 entries on the stack it is fatal (40_control.md R102;
the fatal record is the spec's decision D19). -/
def Obligations.CallPushesTheReturnAddress : Prop :=
  ∀ (s : State) (nnn : BitVec 12),
    (s.sp.val < 24 → ∃ t, exec (.call nnn) s = .next t ∧ t.pc.toNat = nnn.toNat ∧ t.sp.val = s.sp.val + 1 ∧
      (∀ k : Fin 24, k.val = s.sp.val → t.stack[k] = s.pc) ∧
      (∀ k : Fin 24, k.val ≠ s.sp.val → t.stack[k] = s.stack[k]) ∧ KeepsAllBut [.stack, .sp, .pc] s t) ∧
    (s.sp.val = 24 → ∃ t, exec (.call nnn) s = .next t ∧ Raised 3 nnn.toNat s t)

/-- JP V0,NNN goes to V0 + NNN, unreduced and without a guard (40_control.md R103). -/
def Obligations.JumpRelativeAddsV0 : Prop :=
  ∀ (s : State) (nnn : BitVec 12), ∃ t, exec (.jpV0Nnn nnn) s = .next t ∧
    t.pc.toNat = (reg s 0).toNat + nnn.toNat ∧ KeepsAllBut [.pc] s t

/-- SE Vx,NN and SNE Vx,NN skip one instruction width on equality and inequality (40_control.md R104, R105). -/
def Obligations.ImmediateSkips : Prop :=
  ∀ (s : State) (x : Reg) (nn : Byte),
    (∃ t, exec (.seVxNn x nn) s = .next t ∧ SkipsWhen (reg s x = nn) s t) ∧
    (∃ t, exec (.sneVxNn x nn) s = .next t ∧ SkipsWhen (reg s x ≠ nn) s t)

/-- SE Vx,Vy and SNE Vx,Vy skip one instruction width on equality and inequality, whatever the low nibble
(40_control.md R106, R107). -/
def Obligations.RegisterSkips : Prop :=
  ∀ (s : State) (x y : Reg) (n : BitVec 4),
    (∃ t, exec (.seVxVy x y n) s = .next t ∧ SkipsWhen (reg s x = reg s y) s t) ∧
    (∃ t, exec (.sneVxVy x y n) s = .next t ∧ SkipsWhen (reg s x ≠ reg s y) s t)

/-- A CALL and the RET after it come back to the instruction after the CALL with the stack pointer as before
(40_control.md R100, R102), whatever ran in between, as long as the stack pointer and the pushed entry are kept. -/
def Obligations.ReturnUndoesCall : Prop :=
  ∀ (s t u : State) (nnn : BitVec 12), s.sp.val < 24 → exec (.call nnn) s = .next t → u.sp = t.sp →
    (∀ k : Fin 24, k.val = s.sp.val → u.stack[k] = t.stack[k]) →
    ∃ v, exec .ret u = .next v ∧ v.pc = s.pc ∧ v.sp = s.sp ∧ KeepsAllBut [.sp, .pc] u v

/-! ## Loads and ALU (41_load_alu.md) -/

/-- LD Vx,NN and LD Vx,Vy copy a value and touch no flag (41_load_alu.md R110, R112). -/
def Obligations.LoadsCopyValues : Prop :=
  ∀ (s : State) (x y : Reg) (nn : Byte),
    (∃ t, exec (.ldVxNn x nn) s = .next t ∧ WritesReg x nn s t) ∧
    (∃ t, exec (.ldVxVy x y) s = .next t ∧ WritesReg x (reg s y) s t)

/-- ADD Vx,NN adds modulo 256 and touches no flag (41_load_alu.md R111). -/
def Obligations.AddImmediateWraps : Prop :=
  ∀ (s : State) (x : Reg) (nn : Byte), ∃ t, exec (.addVxNn x nn) s = .next t ∧
    (reg t x).toNat = ((reg s x).toNat + nn.toNat) % 256 ∧ KeepsRegsBut [x] s t ∧ KeepsAllBut [.regs] s t

/-- OR, AND and XOR write the bitwise result and touch no flag (41_load_alu.md R113 to R115). -/
def Obligations.BitwiseOperations : Prop :=
  ∀ (s : State) (x y : Reg),
    (∃ t, exec (.orVxVy x y) s = .next t ∧ WritesReg x (reg s x ||| reg s y) s t) ∧
    (∃ t, exec (.andVxVy x y) s = .next t ∧ WritesReg x (reg s x &&& reg s y) s t) ∧
    (∃ t, exec (.xorVxVy x y) s = .next t ∧ WritesReg x (reg s x ^^^ reg s y) s t)

/-- ADD Vx,Vy writes the sum modulo 256 and then the carry, which is also "the sum is less than the added operand"
(41_load_alu.md R116; coinciding registers are the spec's decisions D5 and D6, 10_state.md R24). -/
def Obligations.AddWritesSumThenCarry : Prop :=
  ∀ (s : State) (x y : Reg), ∃ t, exec (.addVxVy x y) s = .next t ∧
    WritesRegThenFlag x (BitVec.ofNat 8 (((reg s x).toNat + (reg s y).toNat) % 256))
      (255 < (reg s x).toNat + (reg s y).toNat) s t ∧
    (reg t 15 = 1 ↔ ((reg s x).toNat + (reg s y).toNat) % 256 < (reg s y).toNat)

/-- SUB and SUBN write the difference modulo 256 and then whether the minuend was strictly greater (41_load_alu.md
R117, R119; coinciding registers are the spec's decisions D5 and D6, 10_state.md R24). -/
def Obligations.SubtractWritesDifferenceThenGreater : Prop :=
  ∀ (s : State) (x y : Reg),
    (∃ t, exec (.subVxVy x y) s = .next t ∧
      WritesRegThenFlag x (BitVec.ofNat 8 (((reg s x).toNat + 256 - (reg s y).toNat) % 256))
        ((reg s y).toNat < (reg s x).toNat) s t) ∧
    (∃ t, exec (.subnVxVy x y) s = .next t ∧
      WritesRegThenFlag x (BitVec.ofNat 8 (((reg s y).toNat + 256 - (reg s x).toNat) % 256))
        ((reg s x).toNat < (reg s y).toNat) s t)

/-- SHR and SHL shift x[X] in place by one, whatever Y is, and then write the bit shifted out (41_load_alu.md R118,
R120; which register is shifted is the spec's decision D7, X = 15 its D6). -/
def Obligations.ShiftsWriteTheBitShiftedOut : Prop :=
  ∀ (s : State) (x y : Reg),
    (∃ t, exec (.shrVx x y) s = .next t ∧
      WritesRegThenFlag x (BitVec.ofNat 8 ((reg s x).toNat / 2)) ((reg s x).toNat % 2 = 1) s t) ∧
    (∃ t, exec (.shlVx x y) s = .next t ∧
      WritesRegThenFlag x (BitVec.ofNat 8 ((reg s x).toNat * 2 % 256)) (128 ≤ (reg s x).toNat) s t)

/-- RND writes the drawn byte AND NN, for every drawn byte (41_load_alu.md R123). -/
def Obligations.RandomByteIsMasked : Prop :=
  ∀ (s : State) (x : Reg) (nn drawn : Byte), ∃ t, exec (.rndVxNn x nn) { s with rnd := drawn } = .next t ∧
    WritesReg x (drawn &&& nn) { s with rnd := drawn } t

/-! ## Address register and memory (42_address_memory.md) -/

/-- LD I,NNN (42_address_memory.md R130). -/
def Obligations.LoadAddressSetsIndex : Prop :=
  ∀ (s : State) (nnn : BitVec 12), ∃ t, exec (.ldINnn nnn) s = .next t ∧ t.i.toNat = nnn.toNat ∧
    KeepsAllBut [.index] s t

/-- ADD I,Vx adds modulo 65536 and then writes whether the new I is above 0x0FFF (42_address_memory.md R131; the wrap
is the spec's decision D12, X = 15 its D5). -/
def Obligations.AddToAddressFlagsAboveMemory : Prop :=
  ∀ (s : State) (x : Reg), ∃ t, exec (.addIVx x) s = .next t ∧
    t.i.toNat = (s.i.toNat + (reg s x).toNat) % 65536 ∧
    ((0x0FFF < t.i.toNat ∧ reg t 15 = 1) ∨ (¬ 0x0FFF < t.i.toNat ∧ reg t 15 = 0)) ∧
    KeepsRegsBut [15] s t ∧ KeepsAllBut [.index, .regs] s t

/-- LD F,Vx sets I to five times the digit; a value above 15 is fatal (42_address_memory.md R132; the fatal record
is the spec's decision D19). -/
def Obligations.LoadGlyphAddress : Prop :=
  ∀ (s : State) (x : Reg),
    ((reg s x).toNat ≤ 15 → ∃ t, exec (.ldFVx x) s = .next t ∧ t.i.toNat = 5 * (reg s x).toNat ∧
      KeepsAllBut [.index] s t) ∧
    (15 < (reg s x).toNat → ∃ t, exec (.ldFVx x) s = .next t ∧ Raised 8 (reg s x).toNat s t)

/-- LD B,Vx writes the hundreds, tens and ones digits to I, I + 1, I + 2 and no other byte; above 4095 it is fatal
with the first failing address (42_address_memory.md R133; the order of the digits is the spec's decision D15). -/
def Obligations.DecimalDigitsAreStored : Prop :=
  ∀ (s : State) (x : Reg),
    (s.i.toNat + 2 ≤ 4095 → ∃ t, exec (.ldBVx x) s = .next t ∧
      (byteAt t s.i.toNat).toNat = (reg s x).toNat / 100 ∧
      (byteAt t (s.i.toNat + 1)).toNat = (reg s x).toNat / 10 % 10 ∧
      (byteAt t (s.i.toNat + 2)).toNat = (reg s x).toNat % 10 ∧
      (∀ a, a < s.i.toNat ∨ s.i.toNat + 2 < a → byteAt t a = byteAt s a) ∧
      KeepsAllBut [.memory] s t) ∧
    (4095 < s.i.toNat + 2 → ∃ t, exec (.ldBVx x) s = .next t ∧ Raised 7 (max s.i.toNat 4096) s t)

/-- LD [I],Vx writes x[0] to x[X] to I, I + 1, ..., I + X and no other byte, with I unchanged; above 4095 it is fatal
with the first failing address (42_address_memory.md R134; the fatal record is the spec's decision D19). -/
def Obligations.RegisterDumpStoresRegisters : Prop :=
  ∀ (s : State) (x : Reg),
    (s.i.toNat + x.toNat ≤ 4095 → ∃ t, exec (.ldMemVx x) s = .next t ∧
      (∀ r : Reg, r.toNat ≤ x.toNat → byteAt t (s.i.toNat + r.toNat) = reg s r) ∧
      (∀ a, a < s.i.toNat ∨ s.i.toNat + x.toNat < a → byteAt t a = byteAt s a) ∧
      KeepsAllBut [.memory] s t) ∧
    (4095 < s.i.toNat + x.toNat → ∃ t, exec (.ldMemVx x) s = .next t ∧ Raised 7 (max s.i.toNat 4096) s t)

/-- LD Vx,[I] reads x[0] to x[X] from I, I + 1, ..., I + X, with every other register and I unchanged; above 4095 it is
fatal with the first failing address (42_address_memory.md R135; the fatal record is the spec's decision D19). -/
def Obligations.RegisterLoadReadsRegisters : Prop :=
  ∀ (s : State) (x : Reg),
    (s.i.toNat + x.toNat ≤ 4095 → ∃ t, exec (.ldVxMem x) s = .next t ∧
      (∀ r : Reg, r.toNat ≤ x.toNat → reg t r = byteAt s (s.i.toNat + r.toNat)) ∧
      (∀ r : Reg, x.toNat < r.toNat → reg t r = reg s r) ∧ KeepsAllBut [.regs] s t) ∧
    (4095 < s.i.toNat + x.toNat → ∃ t, exec (.ldVxMem x) s = .next t ∧ Raised 6 (max s.i.toNat 4096) s t)

/-- Register-dump and then register-load of the same X from the same address restore registers 0 to X, whatever the
registers were changed to in between (42_address_memory.md R135, the document's round trip; 95_test_vectors.md E5). -/
def Obligations.DumpThenLoadRestoresRegisters : Prop :=
  ∀ (s t u : State) (x : Reg), s.i.toNat + x.toNat ≤ 4095 → exec (.ldMemVx x) s = .next t →
    (∀ a, byteAt u a = byteAt t a) → u.i = t.i →
    ∃ v, exec (.ldVxMem x) u = .next v ∧ ∀ r : Reg, r.toNat ≤ x.toNat → reg v r = reg s r

/-! ## Display (43_display.md) -/

/-- CLS turns every pixel off and changes nothing else (43_display.md R140). -/
def Obligations.ClearScreenTurnsEveryPixelOff : Prop :=
  ∀ s : State, ∃ t, exec .cls s = .next t ∧ (∀ r c, pixel t.fb r c = false) ∧ KeepsAllBut [.display] s t

/-- The closed form of DRW: with all rows in range, exactly the pixels that set sprite bits fall on are toggled, and
VF is 1 iff one of them was on before (43_display.md R142; decisions D5, D8, D9, D10, D11). -/
def Obligations.DrawTogglesExactlyTheSprite : Prop :=
  ∀ (s : State) (x y : Reg) (n : BitVec 4), n = 0 ∨ s.i.toNat + (n.toNat - 1) ≤ 4095 →
    ∃ t, exec (.drw x y n) s = .next t ∧
      (∀ r c, pixel t.fb r c = true ↔ (SpriteHits s x y n r c ↔ pixel s.fb r c = false)) ∧
      ((reg t 15 = 1 ∧ ∃ r c, SpriteHits s x y n r c ∧ pixel s.fb r c = true) ∨
        (reg t 15 = 0 ∧ ∀ r c, SpriteHits s x y n r c → pixel s.fb r c = false)) ∧
      KeepsRegsBut [15] s t ∧ KeepsAllBut [.regs, .display] s t

/-- A sprite row whose byte lies above 4095 makes DRW fatal, with the first such address, whatever the display mode
clips (43_display.md R141; decisions D11, D19). -/
def Obligations.DrawBeyondMemoryIsFatal : Prop :=
  ∀ (s : State) (x y : Reg) (n : BitVec 4), n ≠ 0 → 4095 < s.i.toNat + (n.toNat - 1) →
    ∃ t, exec (.drw x y n) s = .next t ∧ Raised 6 (max s.i.toNat 4096) s t

/-- Drawing twice with identical arguments restores every pixel, and VF then says whether the first draw turned a
pixel on (43_display.md R143 a; decisions D5, D8 to D11). Identical arguments: the origin registers hold the same values
at the second draw, which the first draw's write of VF could change only for X = 15 or Y = 15. -/
def Obligations.DrawTwiceRestoresTheDisplay : Prop :=
  ∀ (s t : State) (x y : Reg) (n : BitVec 4), n = 0 ∨ s.i.toNat + (n.toNat - 1) ≤ 4095 →
    exec (.drw x y n) s = .next t → reg t x = reg s x → reg t y = reg s y →
    ∃ u, exec (.drw x y n) t = .next u ∧ (∀ r c, pixel u.fb r c = pixel s.fb r c) ∧
      (reg u 15 = 1 ↔ ∃ r c, pixel s.fb r c = false ∧ pixel t.fb r c = true)

/-! ## Input and timers (44_input_timers.md) -/

/-- SKP and SKNP skip on the level of the key x[X] names; a value above 15 is fatal (44_input_timers.md R151, R152;
the fatal case is the spec's decision D14). -/
def Obligations.KeySkips : Prop :=
  ∀ (s : State) (x : Reg),
    ((reg s x).toNat ≤ 15 →
      (∃ t, exec (.skpVx x) s = .next t ∧ SkipsWhen (s.keyDown.getLsbD (reg s x).toNat = true) s t) ∧
      (∃ t, exec (.sknpVx x) s = .next t ∧ SkipsWhen (s.keyDown.getLsbD (reg s x).toNat = false) s t)) ∧
    (15 < (reg s x).toNat →
      (∃ t, exec (.skpVx x) s = .next t ∧ Raised 9 (reg s x).toNat s t) ∧
      (∃ t, exec (.sknpVx x) s = .next t ∧ Raised 9 (reg s x).toNat s t))

/-- LD Vx,K: with a key down the lowest code goes to x[X]; with none `pc` goes back to this instruction
(44_input_timers.md R153; destination and choice among keys are the spec's decision D13). -/
def Obligations.GetKeyTakesTheLowestKeyOrWaits : Prop :=
  ∀ (s : State) (x : Reg),
    (∀ k, k < 16 → s.keyDown.getLsbD k = true → (∀ j, j < k → s.keyDown.getLsbD j = false) →
      ∃ t, exec (.ldVxK x) s = .next t ∧ WritesReg x (BitVec.ofNat 8 k) s t) ∧
    (s.keyDown = 0 → ∃ t, exec (.ldVxK x) s = .next t ∧ t.pc = s.pc - 2 ∧ KeepsAllBut [.pc] s t)

/-- A cycle of a waiting get-key leaves `pc` where it was and changes nothing but what the timer gate changes, so the
next cycle fetches the same word (44_input_timers.md R153, 95_test_vectors.md E8). -/
def Obligations.WaitingGetKeyMakesNoProgress : Prop :=
  ∀ (s : State) (x : Reg), Fetches s (encodeWord (.ldVxK x)) → s.keyDown = 0 →
    ∃ t, step s = .next t ∧ KeepsAllBut [.dt, .st, .tickRef, .beep, .inputs] s t ∧
      Fetches t (encodeWord (.ldVxK x))

/-- LD Vx,DT reads the delay timer; LD DT,Vx and LD ST,Vx write the timers (44_input_timers.md R154 to R156). -/
def Obligations.TimerTransfers : Prop :=
  ∀ (s : State) (x : Reg),
    (∃ t, exec (.ldVxDt x) s = .next t ∧ WritesReg x s.dt s t) ∧
    (∃ t, exec (.ldDtVx x) s = .next t ∧ t.dt = reg s x ∧ KeepsAllBut [.dt] s t) ∧
    (∃ t, exec (.ldStVx x) s = .next t ∧ t.st = reg s x ∧ KeepsAllBut [.st] s t)

/-! ## Rules of the whole machine -/

/-- An instruction raises a fatal condition exactly when the table of 60_exceptions.md R162 says so, with the table's
code and information; else it completes (R163, R164; latch, record and codes are the spec's decision D19). -/
def Obligations.FatalExactlyAsTheTableSays : Prop :=
  ∀ (i : Instr) (s : State), s.halted = false →
    ∃ t, exec i s = .next t ∧
      (∀ code info, fatalOf i s = some (code, info) → Raised code info s t) ∧
      (fatalOf i s = none → t.halted = false)

/-- An instruction that raises nothing writes only the parts of the state that 30_encoding.md R68 names for it: so only
CLS and DRW write the display, only CALL and RET touch the stack, only LD B and LD [I] write Memory, only the listed
instructions move `pc` (40_control.md R108), and none writes the straps, the latch or the hidden tick reference. -/
def Obligations.InstructionsWriteOnlyWhatTheSummaryNames : Prop :=
  ∀ (i : Instr) (s t : State), exec i s = .next t → t.halted = false → KeepsAllBut (partsWritten i) s t

/-- Exactly seven instructions write VF as a side effect, always 0 or 1; any other leaves VF alone unless its X field
is 15 (10_state.md R21). -/
def Obligations.OnlySevenInstructionsWriteTheFlag : Prop :=
  ∀ (i : Instr) (s t : State), exec i s = .next t → t.halted = false →
    (writesFlag i = true → reg t 15 = 0 ∨ reg t 15 = 1) ∧
    (writesFlag i = false → fieldXOf i ≠ some 15 → reg t 15 = reg s 15)

/-- No instruction can observe the sound timer: from two states that differ in it alone, an instruction leaves the same
latch and record; and if it raises nothing, states that differ in the sound timer at most (10_state.md R26, R33;
44_input_timers.md R154). Of the rest of the fatal state nothing is said (60_exceptions.md R167, log 5). -/
def Obligations.SoundTimerCannotBeRead : Prop :=
  ∀ (i : Instr) (s t : State) (v : Byte), exec i s = .next t →
    ∃ u, exec i (setSt s v) = .next u ∧ Keeps .latch t u ∧ (t.halted = false → u = setSt t u.st)

end
end

