-- ==== Sys2Proof/Laws/State.lean ====
section
/-! SUPPORT. What each update of the state does to each field: one lemma per field per update, true by definition,
so that no later proof unfolds a record update. -/

namespace Sys2Proof.Machine

/-! `setReg` -/

@[simp] theorem setReg_i (s : State) (r : Reg) (v : Byte) : (setReg s r v).i = s.i := rfl
@[simp] theorem setReg_pc (s : State) (r : Reg) (v : Byte) : (setReg s r v).pc = s.pc := rfl
@[simp] theorem setReg_sp (s : State) (r : Reg) (v : Byte) : (setReg s r v).sp = s.sp := rfl
@[simp] theorem setReg_stack (s : State) (r : Reg) (v : Byte) : (setReg s r v).stack = s.stack := rfl
@[simp] theorem setReg_dt (s : State) (r : Reg) (v : Byte) : (setReg s r v).dt = s.dt := rfl
@[simp] theorem setReg_st (s : State) (r : Reg) (v : Byte) : (setReg s r v).st = s.st := rfl
@[simp] theorem setReg_fb (s : State) (r : Reg) (v : Byte) : (setReg s r v).fb = s.fb := rfl
@[simp] theorem setReg_mem (s : State) (r : Reg) (v : Byte) : (setReg s r v).mem = s.mem := rfl
@[simp] theorem setReg_tickRef (s : State) (r : Reg) (v : Byte) : (setReg s r v).tickRef = s.tickRef := rfl
@[simp] theorem setReg_halted (s : State) (r : Reg) (v : Byte) : (setReg s r v).halted = s.halted := rfl
@[simp] theorem setReg_cause (s : State) (r : Reg) (v : Byte) : (setReg s r v).cause = s.cause := rfl
@[simp] theorem setReg_faultPc (s : State) (r : Reg) (v : Byte) : (setReg s r v).faultPc = s.faultPc := rfl
@[simp] theorem setReg_faultInfo (s : State) (r : Reg) (v : Byte) : (setReg s r v).faultInfo = s.faultInfo := rfl
@[simp] theorem setReg_mode (s : State) (r : Reg) (v : Byte) : (setReg s r v).mode = s.mode := rfl
@[simp] theorem setReg_font (s : State) (r : Reg) (v : Byte) : (setReg s r v).font = s.font := rfl
@[simp] theorem setReg_tickPeriod (s : State) (r : Reg) (v : Byte) : (setReg s r v).tickPeriod = s.tickPeriod := rfl
@[simp] theorem setReg_keyDown (s : State) (r : Reg) (v : Byte) : (setReg s r v).keyDown = s.keyDown := rfl
@[simp] theorem setReg_now (s : State) (r : Reg) (v : Byte) : (setReg s r v).now = s.now := rfl
@[simp] theorem setReg_rnd (s : State) (r : Reg) (v : Byte) : (setReg s r v).rnd = s.rnd := rfl
@[simp] theorem setReg_beep (s : State) (r : Reg) (v : Byte) : (setReg s r v).beep = s.beep := rfl
@[simp] theorem setReg_cycle (s : State) (r : Reg) (v : Byte) : (setReg s r v).cycle = s.cycle := rfl

/-! `setRegs` -/

@[simp] theorem setRegs_i (s : State) (bs : List Byte) : (setRegs s bs).i = s.i := rfl
@[simp] theorem setRegs_pc (s : State) (bs : List Byte) : (setRegs s bs).pc = s.pc := rfl
@[simp] theorem setRegs_sp (s : State) (bs : List Byte) : (setRegs s bs).sp = s.sp := rfl
@[simp] theorem setRegs_stack (s : State) (bs : List Byte) : (setRegs s bs).stack = s.stack := rfl
@[simp] theorem setRegs_dt (s : State) (bs : List Byte) : (setRegs s bs).dt = s.dt := rfl
@[simp] theorem setRegs_st (s : State) (bs : List Byte) : (setRegs s bs).st = s.st := rfl
@[simp] theorem setRegs_fb (s : State) (bs : List Byte) : (setRegs s bs).fb = s.fb := rfl
@[simp] theorem setRegs_mem (s : State) (bs : List Byte) : (setRegs s bs).mem = s.mem := rfl
@[simp] theorem setRegs_tickRef (s : State) (bs : List Byte) : (setRegs s bs).tickRef = s.tickRef := rfl
@[simp] theorem setRegs_halted (s : State) (bs : List Byte) : (setRegs s bs).halted = s.halted := rfl
@[simp] theorem setRegs_cause (s : State) (bs : List Byte) : (setRegs s bs).cause = s.cause := rfl
@[simp] theorem setRegs_faultPc (s : State) (bs : List Byte) : (setRegs s bs).faultPc = s.faultPc := rfl
@[simp] theorem setRegs_faultInfo (s : State) (bs : List Byte) : (setRegs s bs).faultInfo = s.faultInfo := rfl
@[simp] theorem setRegs_mode (s : State) (bs : List Byte) : (setRegs s bs).mode = s.mode := rfl
@[simp] theorem setRegs_font (s : State) (bs : List Byte) : (setRegs s bs).font = s.font := rfl
@[simp] theorem setRegs_tickPeriod (s : State) (bs : List Byte) : (setRegs s bs).tickPeriod = s.tickPeriod := rfl
@[simp] theorem setRegs_keyDown (s : State) (bs : List Byte) : (setRegs s bs).keyDown = s.keyDown := rfl
@[simp] theorem setRegs_now (s : State) (bs : List Byte) : (setRegs s bs).now = s.now := rfl
@[simp] theorem setRegs_rnd (s : State) (bs : List Byte) : (setRegs s bs).rnd = s.rnd := rfl
@[simp] theorem setRegs_beep (s : State) (bs : List Byte) : (setRegs s bs).beep = s.beep := rfl
@[simp] theorem setRegs_cycle (s : State) (bs : List Byte) : (setRegs s bs).cycle = s.cycle := rfl

/-! `setIndex` -/

@[simp] theorem setIndex_x (s : State) (v : Word) : (setIndex s v).x = s.x := rfl
@[simp] theorem setIndex_i (s : State) (v : Word) : (setIndex s v).i = v := rfl
@[simp] theorem setIndex_pc (s : State) (v : Word) : (setIndex s v).pc = s.pc := rfl
@[simp] theorem setIndex_sp (s : State) (v : Word) : (setIndex s v).sp = s.sp := rfl
@[simp] theorem setIndex_stack (s : State) (v : Word) : (setIndex s v).stack = s.stack := rfl
@[simp] theorem setIndex_dt (s : State) (v : Word) : (setIndex s v).dt = s.dt := rfl
@[simp] theorem setIndex_st (s : State) (v : Word) : (setIndex s v).st = s.st := rfl
@[simp] theorem setIndex_fb (s : State) (v : Word) : (setIndex s v).fb = s.fb := rfl
@[simp] theorem setIndex_mem (s : State) (v : Word) : (setIndex s v).mem = s.mem := rfl
@[simp] theorem setIndex_tickRef (s : State) (v : Word) : (setIndex s v).tickRef = s.tickRef := rfl
@[simp] theorem setIndex_halted (s : State) (v : Word) : (setIndex s v).halted = s.halted := rfl
@[simp] theorem setIndex_cause (s : State) (v : Word) : (setIndex s v).cause = s.cause := rfl
@[simp] theorem setIndex_faultPc (s : State) (v : Word) : (setIndex s v).faultPc = s.faultPc := rfl
@[simp] theorem setIndex_faultInfo (s : State) (v : Word) : (setIndex s v).faultInfo = s.faultInfo := rfl
@[simp] theorem setIndex_mode (s : State) (v : Word) : (setIndex s v).mode = s.mode := rfl
@[simp] theorem setIndex_font (s : State) (v : Word) : (setIndex s v).font = s.font := rfl
@[simp] theorem setIndex_tickPeriod (s : State) (v : Word) : (setIndex s v).tickPeriod = s.tickPeriod := rfl
@[simp] theorem setIndex_keyDown (s : State) (v : Word) : (setIndex s v).keyDown = s.keyDown := rfl
@[simp] theorem setIndex_now (s : State) (v : Word) : (setIndex s v).now = s.now := rfl
@[simp] theorem setIndex_rnd (s : State) (v : Word) : (setIndex s v).rnd = s.rnd := rfl
@[simp] theorem setIndex_beep (s : State) (v : Word) : (setIndex s v).beep = s.beep := rfl
@[simp] theorem setIndex_cycle (s : State) (v : Word) : (setIndex s v).cycle = s.cycle := rfl

/-! `setPc` -/

@[simp] theorem setPc_x (s : State) (v : Word) : (setPc s v).x = s.x := rfl
@[simp] theorem setPc_i (s : State) (v : Word) : (setPc s v).i = s.i := rfl
@[simp] theorem setPc_pc (s : State) (v : Word) : (setPc s v).pc = v := rfl
@[simp] theorem setPc_sp (s : State) (v : Word) : (setPc s v).sp = s.sp := rfl
@[simp] theorem setPc_stack (s : State) (v : Word) : (setPc s v).stack = s.stack := rfl
@[simp] theorem setPc_dt (s : State) (v : Word) : (setPc s v).dt = s.dt := rfl
@[simp] theorem setPc_st (s : State) (v : Word) : (setPc s v).st = s.st := rfl
@[simp] theorem setPc_fb (s : State) (v : Word) : (setPc s v).fb = s.fb := rfl
@[simp] theorem setPc_mem (s : State) (v : Word) : (setPc s v).mem = s.mem := rfl
@[simp] theorem setPc_tickRef (s : State) (v : Word) : (setPc s v).tickRef = s.tickRef := rfl
@[simp] theorem setPc_halted (s : State) (v : Word) : (setPc s v).halted = s.halted := rfl
@[simp] theorem setPc_cause (s : State) (v : Word) : (setPc s v).cause = s.cause := rfl
@[simp] theorem setPc_faultPc (s : State) (v : Word) : (setPc s v).faultPc = s.faultPc := rfl
@[simp] theorem setPc_faultInfo (s : State) (v : Word) : (setPc s v).faultInfo = s.faultInfo := rfl
@[simp] theorem setPc_mode (s : State) (v : Word) : (setPc s v).mode = s.mode := rfl
@[simp] theorem setPc_font (s : State) (v : Word) : (setPc s v).font = s.font := rfl
@[simp] theorem setPc_tickPeriod (s : State) (v : Word) : (setPc s v).tickPeriod = s.tickPeriod := rfl
@[simp] theorem setPc_keyDown (s : State) (v : Word) : (setPc s v).keyDown = s.keyDown := rfl
@[simp] theorem setPc_now (s : State) (v : Word) : (setPc s v).now = s.now := rfl
@[simp] theorem setPc_rnd (s : State) (v : Word) : (setPc s v).rnd = s.rnd := rfl
@[simp] theorem setPc_beep (s : State) (v : Word) : (setPc s v).beep = s.beep := rfl
@[simp] theorem setPc_cycle (s : State) (v : Word) : (setPc s v).cycle = s.cycle := rfl

/-! `setDt` -/

@[simp] theorem setDt_x (s : State) (v : Byte) : (setDt s v).x = s.x := rfl
@[simp] theorem setDt_i (s : State) (v : Byte) : (setDt s v).i = s.i := rfl
@[simp] theorem setDt_pc (s : State) (v : Byte) : (setDt s v).pc = s.pc := rfl
@[simp] theorem setDt_sp (s : State) (v : Byte) : (setDt s v).sp = s.sp := rfl
@[simp] theorem setDt_stack (s : State) (v : Byte) : (setDt s v).stack = s.stack := rfl
@[simp] theorem setDt_dt (s : State) (v : Byte) : (setDt s v).dt = v := rfl
@[simp] theorem setDt_st (s : State) (v : Byte) : (setDt s v).st = s.st := rfl
@[simp] theorem setDt_fb (s : State) (v : Byte) : (setDt s v).fb = s.fb := rfl
@[simp] theorem setDt_mem (s : State) (v : Byte) : (setDt s v).mem = s.mem := rfl
@[simp] theorem setDt_tickRef (s : State) (v : Byte) : (setDt s v).tickRef = s.tickRef := rfl
@[simp] theorem setDt_halted (s : State) (v : Byte) : (setDt s v).halted = s.halted := rfl
@[simp] theorem setDt_cause (s : State) (v : Byte) : (setDt s v).cause = s.cause := rfl
@[simp] theorem setDt_faultPc (s : State) (v : Byte) : (setDt s v).faultPc = s.faultPc := rfl
@[simp] theorem setDt_faultInfo (s : State) (v : Byte) : (setDt s v).faultInfo = s.faultInfo := rfl
@[simp] theorem setDt_mode (s : State) (v : Byte) : (setDt s v).mode = s.mode := rfl
@[simp] theorem setDt_font (s : State) (v : Byte) : (setDt s v).font = s.font := rfl
@[simp] theorem setDt_tickPeriod (s : State) (v : Byte) : (setDt s v).tickPeriod = s.tickPeriod := rfl
@[simp] theorem setDt_keyDown (s : State) (v : Byte) : (setDt s v).keyDown = s.keyDown := rfl
@[simp] theorem setDt_now (s : State) (v : Byte) : (setDt s v).now = s.now := rfl
@[simp] theorem setDt_rnd (s : State) (v : Byte) : (setDt s v).rnd = s.rnd := rfl
@[simp] theorem setDt_beep (s : State) (v : Byte) : (setDt s v).beep = s.beep := rfl
@[simp] theorem setDt_cycle (s : State) (v : Byte) : (setDt s v).cycle = s.cycle := rfl

/-! `setSt` -/

@[simp] theorem setSt_x (s : State) (v : Byte) : (setSt s v).x = s.x := rfl
@[simp] theorem setSt_i (s : State) (v : Byte) : (setSt s v).i = s.i := rfl
@[simp] theorem setSt_pc (s : State) (v : Byte) : (setSt s v).pc = s.pc := rfl
@[simp] theorem setSt_sp (s : State) (v : Byte) : (setSt s v).sp = s.sp := rfl
@[simp] theorem setSt_stack (s : State) (v : Byte) : (setSt s v).stack = s.stack := rfl
@[simp] theorem setSt_dt (s : State) (v : Byte) : (setSt s v).dt = s.dt := rfl
@[simp] theorem setSt_st (s : State) (v : Byte) : (setSt s v).st = v := rfl
@[simp] theorem setSt_fb (s : State) (v : Byte) : (setSt s v).fb = s.fb := rfl
@[simp] theorem setSt_mem (s : State) (v : Byte) : (setSt s v).mem = s.mem := rfl
@[simp] theorem setSt_tickRef (s : State) (v : Byte) : (setSt s v).tickRef = s.tickRef := rfl
@[simp] theorem setSt_halted (s : State) (v : Byte) : (setSt s v).halted = s.halted := rfl
@[simp] theorem setSt_cause (s : State) (v : Byte) : (setSt s v).cause = s.cause := rfl
@[simp] theorem setSt_faultPc (s : State) (v : Byte) : (setSt s v).faultPc = s.faultPc := rfl
@[simp] theorem setSt_faultInfo (s : State) (v : Byte) : (setSt s v).faultInfo = s.faultInfo := rfl
@[simp] theorem setSt_mode (s : State) (v : Byte) : (setSt s v).mode = s.mode := rfl
@[simp] theorem setSt_font (s : State) (v : Byte) : (setSt s v).font = s.font := rfl
@[simp] theorem setSt_tickPeriod (s : State) (v : Byte) : (setSt s v).tickPeriod = s.tickPeriod := rfl
@[simp] theorem setSt_keyDown (s : State) (v : Byte) : (setSt s v).keyDown = s.keyDown := rfl
@[simp] theorem setSt_now (s : State) (v : Byte) : (setSt s v).now = s.now := rfl
@[simp] theorem setSt_rnd (s : State) (v : Byte) : (setSt s v).rnd = s.rnd := rfl
@[simp] theorem setSt_beep (s : State) (v : Byte) : (setSt s v).beep = s.beep := rfl
@[simp] theorem setSt_cycle (s : State) (v : Byte) : (setSt s v).cycle = s.cycle := rfl

/-! `setDisplay` -/

@[simp] theorem setDisplay_x (s : State) (d : Display) : (setDisplay s d).x = s.x := rfl
@[simp] theorem setDisplay_i (s : State) (d : Display) : (setDisplay s d).i = s.i := rfl
@[simp] theorem setDisplay_pc (s : State) (d : Display) : (setDisplay s d).pc = s.pc := rfl
@[simp] theorem setDisplay_sp (s : State) (d : Display) : (setDisplay s d).sp = s.sp := rfl
@[simp] theorem setDisplay_stack (s : State) (d : Display) : (setDisplay s d).stack = s.stack := rfl
@[simp] theorem setDisplay_dt (s : State) (d : Display) : (setDisplay s d).dt = s.dt := rfl
@[simp] theorem setDisplay_st (s : State) (d : Display) : (setDisplay s d).st = s.st := rfl
@[simp] theorem setDisplay_fb (s : State) (d : Display) : (setDisplay s d).fb = d := rfl
@[simp] theorem setDisplay_mem (s : State) (d : Display) : (setDisplay s d).mem = s.mem := rfl
@[simp] theorem setDisplay_tickRef (s : State) (d : Display) : (setDisplay s d).tickRef = s.tickRef := rfl
@[simp] theorem setDisplay_halted (s : State) (d : Display) : (setDisplay s d).halted = s.halted := rfl
@[simp] theorem setDisplay_cause (s : State) (d : Display) : (setDisplay s d).cause = s.cause := rfl
@[simp] theorem setDisplay_faultPc (s : State) (d : Display) : (setDisplay s d).faultPc = s.faultPc := rfl
@[simp] theorem setDisplay_faultInfo (s : State) (d : Display) : (setDisplay s d).faultInfo = s.faultInfo := rfl
@[simp] theorem setDisplay_mode (s : State) (d : Display) : (setDisplay s d).mode = s.mode := rfl
@[simp] theorem setDisplay_font (s : State) (d : Display) : (setDisplay s d).font = s.font := rfl
@[simp] theorem setDisplay_tickPeriod (s : State) (d : Display) : (setDisplay s d).tickPeriod = s.tickPeriod := rfl
@[simp] theorem setDisplay_keyDown (s : State) (d : Display) : (setDisplay s d).keyDown = s.keyDown := rfl
@[simp] theorem setDisplay_now (s : State) (d : Display) : (setDisplay s d).now = s.now := rfl
@[simp] theorem setDisplay_rnd (s : State) (d : Display) : (setDisplay s d).rnd = s.rnd := rfl
@[simp] theorem setDisplay_beep (s : State) (d : Display) : (setDisplay s d).beep = s.beep := rfl
@[simp] theorem setDisplay_cycle (s : State) (d : Display) : (setDisplay s d).cycle = s.cycle := rfl

/-! `setMem` -/

@[simp] theorem setMem_x (s : State) (m : Memory) : (setMem s m).x = s.x := rfl
@[simp] theorem setMem_i (s : State) (m : Memory) : (setMem s m).i = s.i := rfl
@[simp] theorem setMem_pc (s : State) (m : Memory) : (setMem s m).pc = s.pc := rfl
@[simp] theorem setMem_sp (s : State) (m : Memory) : (setMem s m).sp = s.sp := rfl
@[simp] theorem setMem_stack (s : State) (m : Memory) : (setMem s m).stack = s.stack := rfl
@[simp] theorem setMem_dt (s : State) (m : Memory) : (setMem s m).dt = s.dt := rfl
@[simp] theorem setMem_st (s : State) (m : Memory) : (setMem s m).st = s.st := rfl
@[simp] theorem setMem_fb (s : State) (m : Memory) : (setMem s m).fb = s.fb := rfl
@[simp] theorem setMem_mem (s : State) (m : Memory) : (setMem s m).mem = m := rfl
@[simp] theorem setMem_tickRef (s : State) (m : Memory) : (setMem s m).tickRef = s.tickRef := rfl
@[simp] theorem setMem_halted (s : State) (m : Memory) : (setMem s m).halted = s.halted := rfl
@[simp] theorem setMem_cause (s : State) (m : Memory) : (setMem s m).cause = s.cause := rfl
@[simp] theorem setMem_faultPc (s : State) (m : Memory) : (setMem s m).faultPc = s.faultPc := rfl
@[simp] theorem setMem_faultInfo (s : State) (m : Memory) : (setMem s m).faultInfo = s.faultInfo := rfl
@[simp] theorem setMem_mode (s : State) (m : Memory) : (setMem s m).mode = s.mode := rfl
@[simp] theorem setMem_font (s : State) (m : Memory) : (setMem s m).font = s.font := rfl
@[simp] theorem setMem_tickPeriod (s : State) (m : Memory) : (setMem s m).tickPeriod = s.tickPeriod := rfl
@[simp] theorem setMem_keyDown (s : State) (m : Memory) : (setMem s m).keyDown = s.keyDown := rfl
@[simp] theorem setMem_now (s : State) (m : Memory) : (setMem s m).now = s.now := rfl
@[simp] theorem setMem_rnd (s : State) (m : Memory) : (setMem s m).rnd = s.rnd := rfl
@[simp] theorem setMem_beep (s : State) (m : Memory) : (setMem s m).beep = s.beep := rfl
@[simp] theorem setMem_cycle (s : State) (m : Memory) : (setMem s m).cycle = s.cycle := rfl

/-! `tick` -/

@[simp] theorem tick_x (s : State) : (tick s).x = s.x := rfl
@[simp] theorem tick_i (s : State) : (tick s).i = s.i := rfl
@[simp] theorem tick_pc (s : State) : (tick s).pc = s.pc := rfl
@[simp] theorem tick_sp (s : State) : (tick s).sp = s.sp := rfl
@[simp] theorem tick_stack (s : State) : (tick s).stack = s.stack := rfl
@[simp] theorem tick_dt (s : State) : (tick s).dt = if tickDue s then countDown s.dt else s.dt := rfl
@[simp] theorem tick_st (s : State) : (tick s).st = if tickDue s then countDown s.st else s.st := rfl
@[simp] theorem tick_fb (s : State) : (tick s).fb = s.fb := rfl
@[simp] theorem tick_mem (s : State) : (tick s).mem = s.mem := rfl
@[simp] theorem tick_tickRef (s : State) : (tick s).tickRef = if tickDue s then s.now else s.tickRef := rfl
@[simp] theorem tick_halted (s : State) : (tick s).halted = s.halted := rfl
@[simp] theorem tick_cause (s : State) : (tick s).cause = s.cause := rfl
@[simp] theorem tick_faultPc (s : State) : (tick s).faultPc = s.faultPc := rfl
@[simp] theorem tick_faultInfo (s : State) : (tick s).faultInfo = s.faultInfo := rfl
@[simp] theorem tick_mode (s : State) : (tick s).mode = s.mode := rfl
@[simp] theorem tick_font (s : State) : (tick s).font = s.font := rfl
@[simp] theorem tick_tickPeriod (s : State) : (tick s).tickPeriod = s.tickPeriod := rfl
@[simp] theorem tick_keyDown (s : State) : (tick s).keyDown = s.keyDown := rfl
@[simp] theorem tick_now (s : State) : (tick s).now = s.now := rfl
@[simp] theorem tick_rnd (s : State) : (tick s).rnd = s.rnd := rfl
@[simp] theorem tick_beep (s : State) : (tick s).beep = (tickDue s && decide (s.st ≠ 0)) := rfl
@[simp] theorem tick_cycle (s : State) : (tick s).cycle = s.cycle := rfl

/-! `idle` -/

@[simp] theorem idle_x (s : State) : (idle s).x = s.x := rfl
@[simp] theorem idle_i (s : State) : (idle s).i = s.i := rfl
@[simp] theorem idle_pc (s : State) : (idle s).pc = s.pc := rfl
@[simp] theorem idle_sp (s : State) : (idle s).sp = s.sp := rfl
@[simp] theorem idle_stack (s : State) : (idle s).stack = s.stack := rfl
@[simp] theorem idle_dt (s : State) : (idle s).dt = s.dt := rfl
@[simp] theorem idle_st (s : State) : (idle s).st = s.st := rfl
@[simp] theorem idle_fb (s : State) : (idle s).fb = s.fb := rfl
@[simp] theorem idle_mem (s : State) : (idle s).mem = s.mem := rfl
@[simp] theorem idle_tickRef (s : State) : (idle s).tickRef = s.tickRef := rfl
@[simp] theorem idle_halted (s : State) : (idle s).halted = s.halted := rfl
@[simp] theorem idle_cause (s : State) : (idle s).cause = s.cause := rfl
@[simp] theorem idle_faultPc (s : State) : (idle s).faultPc = s.faultPc := rfl
@[simp] theorem idle_faultInfo (s : State) : (idle s).faultInfo = s.faultInfo := rfl
@[simp] theorem idle_mode (s : State) : (idle s).mode = s.mode := rfl
@[simp] theorem idle_font (s : State) : (idle s).font = s.font := rfl
@[simp] theorem idle_tickPeriod (s : State) : (idle s).tickPeriod = s.tickPeriod := rfl
@[simp] theorem idle_keyDown (s : State) : (idle s).keyDown = s.keyDown := rfl
@[simp] theorem idle_now (s : State) : (idle s).now = s.now := rfl
@[simp] theorem idle_rnd (s : State) : (idle s).rnd = s.rnd := rfl
@[simp] theorem idle_beep (s : State) : (idle s).beep = false := rfl
@[simp] theorem idle_cycle (s : State) : (idle s).cycle = s.cycle := rfl

/-! `sampleInputs` -/

@[simp] theorem sampleInputs_x (s : State) : (sampleInputs s).x = s.x := rfl
@[simp] theorem sampleInputs_i (s : State) : (sampleInputs s).i = s.i := rfl
@[simp] theorem sampleInputs_pc (s : State) : (sampleInputs s).pc = s.pc := rfl
@[simp] theorem sampleInputs_sp (s : State) : (sampleInputs s).sp = s.sp := rfl
@[simp] theorem sampleInputs_stack (s : State) : (sampleInputs s).stack = s.stack := rfl
@[simp] theorem sampleInputs_dt (s : State) : (sampleInputs s).dt = s.dt := rfl
@[simp] theorem sampleInputs_st (s : State) : (sampleInputs s).st = s.st := rfl
@[simp] theorem sampleInputs_fb (s : State) : (sampleInputs s).fb = s.fb := rfl
@[simp] theorem sampleInputs_mem (s : State) : (sampleInputs s).mem = s.mem := rfl
@[simp] theorem sampleInputs_tickRef (s : State) : (sampleInputs s).tickRef = s.tickRef := rfl
@[simp] theorem sampleInputs_halted (s : State) : (sampleInputs s).halted = s.halted := rfl
@[simp] theorem sampleInputs_cause (s : State) : (sampleInputs s).cause = s.cause := rfl
@[simp] theorem sampleInputs_faultPc (s : State) : (sampleInputs s).faultPc = s.faultPc := rfl
@[simp] theorem sampleInputs_faultInfo (s : State) : (sampleInputs s).faultInfo = s.faultInfo := rfl
@[simp] theorem sampleInputs_mode (s : State) : (sampleInputs s).mode = s.mode := rfl
@[simp] theorem sampleInputs_font (s : State) : (sampleInputs s).font = s.font := rfl
@[simp] theorem sampleInputs_tickPeriod (s : State) : (sampleInputs s).tickPeriod = s.tickPeriod := rfl
@[simp] theorem sampleInputs_keyDown (s : State) : (sampleInputs s).keyDown = Config.keyDown (s.cycle + 1) := rfl
@[simp] theorem sampleInputs_now (s : State) : (sampleInputs s).now = Config.now (s.cycle + 1) := rfl
@[simp] theorem sampleInputs_rnd (s : State) : (sampleInputs s).rnd = Config.rnd (s.cycle + 1) := rfl
@[simp] theorem sampleInputs_beep (s : State) : (sampleInputs s).beep = s.beep := rfl
@[simp] theorem sampleInputs_cycle (s : State) : (sampleInputs s).cycle = s.cycle + 1 := rfl

/-! `raise` -/

@[simp] theorem raise_x (p : Word) (e : Trap) (s : State) : (raise p e s).x = Config.lostX s.cycle := rfl
@[simp] theorem raise_i (p : Word) (e : Trap) (s : State) : (raise p e s).i = Config.lostI s.cycle := rfl
@[simp] theorem raise_pc (p : Word) (e : Trap) (s : State) : (raise p e s).pc = Config.lostPc s.cycle := rfl
@[simp] theorem raise_sp (p : Word) (e : Trap) (s : State) : (raise p e s).sp = Config.lostSp s.cycle := rfl
@[simp] theorem raise_stack (p : Word) (e : Trap) (s : State) : (raise p e s).stack = Config.lostStack s.cycle := rfl
@[simp] theorem raise_dt (p : Word) (e : Trap) (s : State) : (raise p e s).dt = Config.lostDt s.cycle := rfl
@[simp] theorem raise_st (p : Word) (e : Trap) (s : State) : (raise p e s).st = Config.lostSt s.cycle := rfl
@[simp] theorem raise_fb (p : Word) (e : Trap) (s : State) : (raise p e s).fb = Config.lostFb s.cycle := rfl
@[simp] theorem raise_mem (p : Word) (e : Trap) (s : State) : (raise p e s).mem = Memory.ofCells s.font (Config.lostMem s.cycle) := rfl
@[simp] theorem raise_tickRef (p : Word) (e : Trap) (s : State) : (raise p e s).tickRef = Config.lostTickRef s.cycle := rfl
@[simp] theorem raise_halted (p : Word) (e : Trap) (s : State) : (raise p e s).halted = true := rfl
@[simp] theorem raise_cause (p : Word) (e : Trap) (s : State) : (raise p e s).cause = e.cause.code := rfl
@[simp] theorem raise_faultPc (p : Word) (e : Trap) (s : State) : (raise p e s).faultPc = p := rfl
@[simp] theorem raise_faultInfo (p : Word) (e : Trap) (s : State) : (raise p e s).faultInfo = e.info := rfl
@[simp] theorem raise_mode (p : Word) (e : Trap) (s : State) : (raise p e s).mode = s.mode := rfl
@[simp] theorem raise_font (p : Word) (e : Trap) (s : State) : (raise p e s).font = s.font := rfl
@[simp] theorem raise_tickPeriod (p : Word) (e : Trap) (s : State) : (raise p e s).tickPeriod = s.tickPeriod := rfl
@[simp] theorem raise_keyDown (p : Word) (e : Trap) (s : State) : (raise p e s).keyDown = s.keyDown := rfl
@[simp] theorem raise_now (p : Word) (e : Trap) (s : State) : (raise p e s).now = s.now := rfl
@[simp] theorem raise_rnd (p : Word) (e : Trap) (s : State) : (raise p e s).rnd = s.rnd := rfl
@[simp] theorem raise_beep (p : Word) (e : Trap) (s : State) : (raise p e s).beep = s.beep := rfl
@[simp] theorem raise_cycle (p : Word) (e : Trap) (s : State) : (raise p e s).cycle = s.cycle := rfl

/-! `advance` -/

@[simp] theorem advance_x (s : State) : (advance s).x = s.x := rfl
@[simp] theorem advance_i (s : State) : (advance s).i = s.i := rfl
@[simp] theorem advance_pc (s : State) : (advance s).pc = s.pc + 2 := rfl
@[simp] theorem advance_sp (s : State) : (advance s).sp = s.sp := rfl
@[simp] theorem advance_stack (s : State) : (advance s).stack = s.stack := rfl
@[simp] theorem advance_dt (s : State) : (advance s).dt = s.dt := rfl
@[simp] theorem advance_st (s : State) : (advance s).st = s.st := rfl
@[simp] theorem advance_fb (s : State) : (advance s).fb = s.fb := rfl
@[simp] theorem advance_mem (s : State) : (advance s).mem = s.mem := rfl
@[simp] theorem advance_tickRef (s : State) : (advance s).tickRef = s.tickRef := rfl
@[simp] theorem advance_halted (s : State) : (advance s).halted = s.halted := rfl
@[simp] theorem advance_cause (s : State) : (advance s).cause = s.cause := rfl
@[simp] theorem advance_faultPc (s : State) : (advance s).faultPc = s.faultPc := rfl
@[simp] theorem advance_faultInfo (s : State) : (advance s).faultInfo = s.faultInfo := rfl
@[simp] theorem advance_mode (s : State) : (advance s).mode = s.mode := rfl
@[simp] theorem advance_font (s : State) : (advance s).font = s.font := rfl
@[simp] theorem advance_tickPeriod (s : State) : (advance s).tickPeriod = s.tickPeriod := rfl
@[simp] theorem advance_keyDown (s : State) : (advance s).keyDown = s.keyDown := rfl
@[simp] theorem advance_now (s : State) : (advance s).now = s.now := rfl
@[simp] theorem advance_rnd (s : State) : (advance s).rnd = s.rnd := rfl
@[simp] theorem advance_beep (s : State) : (advance s).beep = s.beep := rfl
@[simp] theorem advance_cycle (s : State) : (advance s).cycle = s.cycle := rfl

/-! Reading a register after an update. -/

@[simp] theorem reg_setReg (s : State) (r q : Reg) (v : Byte) :
    reg (setReg s r v) q = if q = r then v else reg s q := by
  simp only [reg, setReg, Vector.getElem_set]
  by_cases h : q = r
  · simp [h]
  · have : ¬ r.toNat = q.toNat := fun e => h (BitVec.eq_of_toNat_eq e.symm)
    simp [h, this]

@[simp] theorem reg_setRegFlag (s : State) (r q : Reg) (v f : Byte) :
    reg (setRegFlag s r v f) q = if q = vf then f else if q = r then v else reg s q := by
  simp [setRegFlag]

@[simp] theorem reg_setRegs (s : State) (bs : List Byte) (q : Reg) :
    reg (setRegs s bs) q = (bs[q.toNat]?).getD (reg s q) := by
  simp [reg, setRegs]

@[simp] theorem reg_setIndex (s : State) (v : Word) (q : Reg) : reg (setIndex s v) q = reg s q := rfl
@[simp] theorem reg_setPc (s : State) (v : Word) (q : Reg) : reg (setPc s v) q = reg s q := rfl
@[simp] theorem reg_advance (s : State) (q : Reg) : reg (advance s) q = reg s q := rfl
@[simp] theorem reg_setDt (s : State) (v : Byte) (q : Reg) : reg (setDt s v) q = reg s q := rfl
@[simp] theorem reg_setSt (s : State) (v : Byte) (q : Reg) : reg (setSt s v) q = reg s q := rfl
@[simp] theorem reg_setDisplay (s : State) (d : Display) (q : Reg) : reg (setDisplay s d) q = reg s q := rfl
@[simp] theorem reg_setMem (s : State) (m : Memory) (q : Reg) : reg (setMem s m) q = reg s q := rfl
@[simp] theorem reg_tick (s : State) (q : Reg) : reg (tick s) q = reg s q := rfl
@[simp] theorem reg_idle (s : State) (q : Reg) : reg (idle s) q = reg s q := rfl
@[simp] theorem reg_sampleInputs (s : State) (q : Reg) : reg (sampleInputs s) q = reg s q := rfl

/-! Reading a byte of Memory after an update. -/

@[simp] theorem byteAt_setReg (s : State) (r : Reg) (v : Byte) (a : Nat) : byteAt (setReg s r v) a = byteAt s a := rfl
@[simp] theorem byteAt_setRegFlag (s : State) (r : Reg) (v w : Byte) (a : Nat) : byteAt (setRegFlag s r v w) a = byteAt s a := rfl
@[simp] theorem byteAt_setRegs (s : State) (bs : List Byte) (a : Nat) : byteAt (setRegs s bs) a = byteAt s a := rfl
@[simp] theorem byteAt_setIndex (s : State) (v : Word) (a : Nat) : byteAt (setIndex s v) a = byteAt s a := rfl
@[simp] theorem byteAt_setPc (s : State) (v : Word) (a : Nat) : byteAt (setPc s v) a = byteAt s a := rfl
@[simp] theorem byteAt_advance (s : State) (a : Nat) : byteAt (advance s) a = byteAt s a := rfl
@[simp] theorem byteAt_setDt (s : State) (v : Byte) (a : Nat) : byteAt (setDt s v) a = byteAt s a := rfl
@[simp] theorem byteAt_setSt (s : State) (v : Byte) (a : Nat) : byteAt (setSt s v) a = byteAt s a := rfl
@[simp] theorem byteAt_setDisplay (s : State) (d : Display) (a : Nat) : byteAt (setDisplay s d) a = byteAt s a := rfl
@[simp] theorem byteAt_tick (s : State) (a : Nat) : byteAt (tick s) a = byteAt s a := rfl
@[simp] theorem byteAt_idle (s : State) (a : Nat) : byteAt (idle s) a = byteAt s a := rfl
@[simp] theorem byteAt_sampleInputs (s : State) (a : Nat) : byteAt (sampleInputs s) a = byteAt s a := rfl
@[simp] theorem byteAt_setMem (s : State) (m : Memory) (a : Nat) : byteAt (setMem s m) a = Memory.peek s.font m a := rfl

/-! `setRegFlag` leaves every field but `x` alone. -/

@[simp] theorem setRegFlag_i (s : State) (r : Reg) (v f : Byte) : (setRegFlag s r v f).i = s.i := rfl
@[simp] theorem setRegFlag_pc (s : State) (r : Reg) (v f : Byte) : (setRegFlag s r v f).pc = s.pc := rfl
@[simp] theorem setRegFlag_sp (s : State) (r : Reg) (v f : Byte) : (setRegFlag s r v f).sp = s.sp := rfl
@[simp] theorem setRegFlag_stack (s : State) (r : Reg) (v f : Byte) : (setRegFlag s r v f).stack = s.stack := rfl
@[simp] theorem setRegFlag_dt (s : State) (r : Reg) (v f : Byte) : (setRegFlag s r v f).dt = s.dt := rfl
@[simp] theorem setRegFlag_st (s : State) (r : Reg) (v f : Byte) : (setRegFlag s r v f).st = s.st := rfl
@[simp] theorem setRegFlag_fb (s : State) (r : Reg) (v f : Byte) : (setRegFlag s r v f).fb = s.fb := rfl
@[simp] theorem setRegFlag_mem (s : State) (r : Reg) (v f : Byte) : (setRegFlag s r v f).mem = s.mem := rfl
@[simp] theorem setRegFlag_tickRef (s : State) (r : Reg) (v f : Byte) : (setRegFlag s r v f).tickRef = s.tickRef := rfl
@[simp] theorem setRegFlag_halted (s : State) (r : Reg) (v f : Byte) : (setRegFlag s r v f).halted = s.halted := rfl
@[simp] theorem setRegFlag_cause (s : State) (r : Reg) (v f : Byte) : (setRegFlag s r v f).cause = s.cause := rfl
@[simp] theorem setRegFlag_faultPc (s : State) (r : Reg) (v f : Byte) : (setRegFlag s r v f).faultPc = s.faultPc := rfl
@[simp] theorem setRegFlag_faultInfo (s : State) (r : Reg) (v f : Byte) : (setRegFlag s r v f).faultInfo = s.faultInfo := rfl
@[simp] theorem setRegFlag_mode (s : State) (r : Reg) (v f : Byte) : (setRegFlag s r v f).mode = s.mode := rfl
@[simp] theorem setRegFlag_font (s : State) (r : Reg) (v f : Byte) : (setRegFlag s r v f).font = s.font := rfl
@[simp] theorem setRegFlag_tickPeriod (s : State) (r : Reg) (v f : Byte) : (setRegFlag s r v f).tickPeriod = s.tickPeriod := rfl
@[simp] theorem setRegFlag_keyDown (s : State) (r : Reg) (v f : Byte) : (setRegFlag s r v f).keyDown = s.keyDown := rfl
@[simp] theorem setRegFlag_now (s : State) (r : Reg) (v f : Byte) : (setRegFlag s r v f).now = s.now := rfl
@[simp] theorem setRegFlag_rnd (s : State) (r : Reg) (v f : Byte) : (setRegFlag s r v f).rnd = s.rnd := rfl
@[simp] theorem setRegFlag_beep (s : State) (r : Reg) (v f : Byte) : (setRegFlag s r v f).beep = s.beep := rfl
@[simp] theorem setRegFlag_cycle (s : State) (r : Reg) (v f : Byte) : (setRegFlag s r v f).cycle = s.cycle := rfl

end Sys2Proof.Machine
end

