-- ==== Sys2Proof/Laws/Memory.lean ====
section
/-! SUPPORT. The laws of Memory: reading after writing, and the canonical form kept by every operation. They hold
of every list of cells, canonical or not, unless they say otherwise. -/

namespace Sys2Proof.Machine

variable {f : Font}

@[simp] theorem Memory.lookup_put (m : Memory) (a c : Nat) (b : Byte) :
    Memory.lookup (Memory.put m a b) c = if c = a then some b else Memory.lookup m c := by
  induction m with
  | nil => by_cases h : a = c <;> simp [Memory.put, Memory.lookup, h, eq_comm]
  | cons e rest ih =>
    obtain ⟨k, v⟩ := e
    simp only [Memory.put]
    split
    · grind [Memory.lookup]
    · split
      · grind [Memory.lookup]
      · grind [Memory.lookup]

@[simp] theorem Memory.lookup_drop (m : Memory) (a c : Nat) :
    Memory.lookup (Memory.drop m a) c = if c = a then none else Memory.lookup m c := by
  induction m with
  | nil => simp [Memory.drop, Memory.lookup]
  | cons e rest ih => obtain ⟨k, v⟩ := e; grind [Memory.drop, Memory.lookup]

/-- Reading after a write: the byte written there, everything else as before. -/
@[simp] theorem Memory.peek_poke (m : Memory) (a c : Nat) (b : Byte) :
    Memory.peek f (Memory.poke f m a b) c = if c = a then b else Memory.peek f m c := by
  unfold Memory.poke
  split
  · rename_i h
    by_cases hc : c = a
    · subst hc; simp [Memory.peek, Memory.unlisted, h]
    · simp [Memory.peek, hc]
  · by_cases hc : c = a <;> simp [Memory.peek, hc]

theorem Memory.wfFrom_mono {lo lo' : Nat} (h : lo' ≤ lo) {m : Memory} (hm : Memory.wfFrom f lo m = true) :
    Memory.wfFrom f lo' m = true := by
  cases m with
  | nil => rfl
  | cons e rest =>
    obtain ⟨a, b⟩ := e
    simp only [Memory.wfFrom, Bool.and_eq_true, decide_eq_true_eq] at hm ⊢
    exact ⟨⟨⟨by omega, hm.1.1.2⟩, hm.1.2⟩, hm.2⟩

theorem Memory.wfFrom_drop {lo : Nat} {m : Memory} (hm : Memory.wfFrom f lo m = true) (a : Nat) :
    Memory.wfFrom f lo (Memory.drop m a) = true := by
  induction m generalizing lo with
  | nil => rfl
  | cons e rest ih =>
    obtain ⟨c, v⟩ := e
    simp only [Memory.wfFrom, Bool.and_eq_true] at hm
    simp only [Memory.drop]
    split
    · exact Memory.wfFrom_mono (by have := of_decide_eq_true hm.1.1.1; omega) (ih hm.2)
    · simp only [Memory.wfFrom, Bool.and_eq_true]; exact ⟨hm.1, ih hm.2⟩

theorem Memory.wfFrom_put {lo : Nat} {m : Memory} (hm : Memory.wfFrom f lo m = true) {a : Nat} {b : Byte}
    (hlo : lo ≤ a) (ha : a < 4096) (hb : fontByte? f a ≠ some b) :
    Memory.wfFrom f lo (Memory.put m a b) = true := by
  induction m generalizing lo with
  | nil => simp [Memory.put, Memory.wfFrom, hlo, ha, hb]
  | cons e rest ih =>
    obtain ⟨c, v⟩ := e
    simp only [Memory.wfFrom, Bool.and_eq_true, decide_eq_true_eq] at hm
    simp only [Memory.put]
    split
    · simp only [Memory.wfFrom, Bool.and_eq_true, decide_eq_true_eq]
      exact ⟨⟨⟨hlo, ha⟩, hb⟩, ⟨⟨by omega, hm.1.1.2⟩, hm.1.2⟩, hm.2⟩
    · split
      · rename_i h; subst h
        simp only [Memory.wfFrom, Bool.and_eq_true, decide_eq_true_eq]
        exact ⟨⟨⟨hlo, ha⟩, hb⟩, hm.2⟩
      · simp only [Memory.wfFrom, Bool.and_eq_true, decide_eq_true_eq]
        exact ⟨hm.1, ih hm.2 (by omega)⟩

/-- A write inside Memory keeps the canonical form. -/
theorem Memory.wf_poke {m : Memory} (hm : Memory.wf f m = true) {a : Nat} (ha : a < 4096) (b : Byte) :
    Memory.wf f (Memory.poke f m a b) = true := by
  unfold Memory.poke
  split
  · exact Memory.wfFrom_drop hm a
  · rename_i h; exact Memory.wfFrom_put hm (Nat.zero_le _) ha h

/-- Memory after a fatal condition is canonical too. -/
theorem Memory.wf_ofCells (l : List (Nat × Byte)) : Memory.wf f (Memory.ofCells f l) = true := by
  induction l with
  | nil => rfl
  | cons e rest ih =>
    obtain ⟨a, b⟩ := e
    simp only [Memory.ofCells]
    split
    · exact Memory.wf_poke ih ‹_› b
    · exact ih

theorem Memory.wf_pokes {m : Memory} (hm : Memory.wf f m = true) (a : Nat) (bs : List Byte) :
    Memory.wf f (Memory.pokes f m a bs) = true := by
  induction bs generalizing m a with
  | nil => exact hm
  | cons b bs ih =>
    simp only [Memory.pokes]
    split
    · exact ih (Memory.wf_poke hm ‹_› b) _
    · exact ih hm _

theorem Memory.lookup_eq_none_of_lt {lo : Nat} {m : Memory} (hm : Memory.wfFrom f lo m = true) {a : Nat}
    (h : a < lo) : Memory.lookup m a = none := by
  induction m generalizing lo with
  | nil => rfl
  | cons e rest ih =>
    obtain ⟨c, v⟩ := e
    simp only [Memory.wfFrom, Bool.and_eq_true, decide_eq_true_eq] at hm
    have : ¬ c = a := by omega
    simp only [Memory.lookup, this, if_false]
    exact ih hm.2 (by omega)

/-- The canonical form is canonical: two memories in it that list the same bytes are the same data. -/
theorem Memory.ext_of_lookup {lo : Nat} {m m' : Memory} (hm : Memory.wfFrom f lo m = true)
    (hm' : Memory.wfFrom f lo m' = true) (h : ∀ a, Memory.lookup m a = Memory.lookup m' a) : m = m' := by
  induction m generalizing lo m' with
  | nil =>
    cases m' with
    | nil => rfl
    | cons e' rest' => obtain ⟨c', v'⟩ := e'; simpa [Memory.lookup] using h c'
  | cons e rest ih =>
    obtain ⟨c, v⟩ := e
    cases m' with
    | nil => simpa [Memory.lookup] using h c
    | cons e' rest' =>
      obtain ⟨c', v'⟩ := e'
      simp only [Memory.wfFrom, Bool.and_eq_true, decide_eq_true_eq] at hm hm'
      have hc : c = c' := by
        rcases Nat.lt_trichotomy c c' with hlt | heq | hgt
        · have := h c
          simp only [Memory.lookup, if_true, Nat.ne_of_gt hlt, if_false] at this
          rw [Memory.lookup_eq_none_of_lt hm'.2 (by omega)] at this
          simp at this
        · exact heq
        · have := h c'
          simp only [Memory.lookup, if_true, Nat.ne_of_gt hgt, if_false] at this
          rw [Memory.lookup_eq_none_of_lt hm.2 (by omega)] at this
          simp at this
      subst hc
      have hv : v = v' := by simpa [Memory.lookup] using h c
      subst hv
      congr 1
      refine ih hm.2 hm'.2 fun a => ?_
      by_cases ha : c = a
      · subst ha
        rw [Memory.lookup_eq_none_of_lt hm.2 (by omega), Memory.lookup_eq_none_of_lt hm'.2 (by omega)]
      · simpa [Memory.lookup, ha] using h a

/-! Access by bytes: everything `loadBytes`, `storeBytes` and `Memory.pokes` can do. -/

/-- Reading `n` bytes answers them exactly when the last address is in range, and else raises the first address
out of range. -/
theorem loadBytes_eq (m : Memory) (a n : Nat) :
    loadBytes f m a n =
      if n = 0 ∨ a + n ≤ 4096 then .ok ((List.range n).map fun k => Memory.peek f m (a + k))
      else .error (rangeTrap .memRangeRead (max a 4096)) := by
  induction n generalizing a with
  | zero => simp [loadBytes]
  | succ n ih =>
    simp only [loadBytes, memRead]
    by_cases ha : a > 4095
    · have h2 : max a 4096 = a := by omega
      simp [ha, h2]
      omega
    · simp only [ha, if_false]
      rw [ih (a + 1)]
      by_cases hn : n = 0 ∨ a + 1 + n ≤ 4096
      · have h1 : n + 1 = 0 ∨ a + (n + 1) ≤ 4096 := by omega
        simp only [hn, h1, if_true, List.range_succ_eq_map, List.map_cons, List.map_map]
        simp [Function.comp_def, Nat.add_assoc, Nat.add_comm 1]
      · have h2 : max (a + 1) 4096 = max a 4096 := by omega
        simp [hn, h2]
        omega

/-- Writing bytes completes exactly when the last address is in range, and else raises the first address out of
range. -/
theorem storeBytes_eq (m : Memory) (a : Nat) (bs : List Byte) :
    storeBytes f m a bs =
      if bs = [] ∨ a + bs.length ≤ 4096 then .ok (Memory.pokes f m a bs)
      else .error (rangeTrap .memRangeWrite (max a 4096)) := by
  induction bs generalizing m a with
  | nil => simp [storeBytes, Memory.pokes]
  | cons b bs ih =>
    simp only [storeBytes, memWrite, Memory.pokes]
    by_cases ha : a > 4095
    · have h2 : max a 4096 = a := by omega
      simp [ha, h2]
      omega
    · have ha' : a < 4096 := by omega
      simp only [ha, if_false, ha', if_true]
      rw [ih]
      by_cases hn : bs = [] ∨ a + 1 + bs.length ≤ 4096
      · have h1 : a + (b :: bs).length ≤ 4096 := by
          rcases hn with h | h
          · subst h; simp; omega
          · simp; omega
        simp only [hn, h1, if_true, or_true]
      · have h2 : max (a + 1) 4096 = max a 4096 := by omega
        simp [hn, h2]
        omega

/-- A checked write keeps the canonical form. -/
theorem wf_memWrite {m m' : Memory} {a : Nat} {b : Byte} (hm : Memory.wf f m = true) (h : memWrite f m a b = .ok m') :
    Memory.wf f m' = true := by
  unfold memWrite at h
  split at h
  · cases h
  · cases h; exact Memory.wf_poke hm (by omega) b

/-- Checked writes of several bytes keep the canonical form. -/
theorem wf_storeBytes {m m' : Memory} {a : Nat} {bs : List Byte} (hm : Memory.wf f m = true)
    (h : storeBytes f m a bs = .ok m') : Memory.wf f m' = true := by
  rw [storeBytes_eq] at h
  split at h
  · cases h; exact Memory.wf_pokes hm a bs
  · cases h

/-- Memory at reset is canonical. -/
theorem wf_reset : Memory.wf State.reset.font State.reset.mem = true := rfl

/-- Reading after a block of writes inside Memory. -/
theorem Memory.peek_pokes (m : Memory) (a c : Nat) (bs : List Byte) (h : a + bs.length ≤ 4096) :
    Memory.peek f (Memory.pokes f m a bs) c =
      if a ≤ c then (bs[c - a]?).getD (Memory.peek f m c) else Memory.peek f m c := by
  induction bs generalizing m a with
  | nil => simp [Memory.pokes]
  | cons b bs ih =>
    simp only [List.length_cons] at h
    have ha : a < 4096 := by omega
    simp only [Memory.pokes, ha, if_true]
    rw [ih _ _ (by omega)]
    by_cases hc : a + 1 ≤ c
    · have h1 : a ≤ c := by omega
      have h2 : ¬ c = a := by omega
      have h3 : c - a = (c - (a + 1)) + 1 := by omega
      simp [hc, h1, h2, h3]
    · by_cases h1 : a ≤ c
      · have h2 : c = a := by omega
        subst h2; simp
      · have h2 : ¬ c = a := by omega
        simp [hc, h1, h2]

/-- What a block of writes leaves at every address, as the state reads it. -/
theorem byteAt_setMem_pokes (s : State) (a c : Nat) (bs : List Byte) (h : a + bs.length ≤ 4096) :
    byteAt (setMem s (Memory.pokes s.font s.mem a bs)) c =
      if a ≤ c then (bs[c - a]?).getD (byteAt s c) else byteAt s c :=
  Memory.peek_pokes s.mem a c bs h

end Sys2Proof.Machine
end

