-- ==== Sys2Proof/Laws/Cycle.lean ====
section
/-! SUPPORT. What a step can do, said once (30_encoding.md R72), and what a completed instruction can be. -/

namespace Sys2Proof.Machine

/-- An instruction that ends through `complete` always answers a next state: the one it computed, or the fatal
state. -/
theorem complete_cases {s t : State} {r : Except Trap State} (h : complete s r = .next t) :
    r = .ok t ∨ ∃ e, r = .error e ∧ t = raise (pc0 s) e s := by
  cases r with
  | ok u => left; simpa [complete] using h
  | error e => right; exact ⟨e, rfl, by simpa [complete] using h.symm⟩

@[simp] theorem complete_ok (s t : State) : complete s (.ok t) = .next t := rfl

@[simp] theorem complete_error (s : State) (e : Trap) : complete s (.error e) = .next (raise (pc0 s) e s) := rfl

/-- The fetch answers the word of the two bytes exactly when both are inside Memory (30_encoding.md R71). -/
theorem fetch_eq (s : State) (pc : Word) :
    fetch s.font s.mem pc =
      if pc.toNat ≤ 4094 then .ok (wordOfBytes (byteAt s pc.toNat) (byteAt s (pc.toNat + 1)))
      else .error (rangeTrap .memRangeFetch pc.toNat) := by
  unfold fetch byteAt
  by_cases h : pc.toNat ≤ 4094
  · simp [h, show ¬ pc.toNat + 1 > 4095 by omega]
  · simp [h, show pc.toNat + 1 > 4095 by omega]

/-- Everything a step that answers a next state can have done. -/
theorem step_cases {s t : State} (h : step s = .next t) :
    (s.halted = true ∧ t = sampleInputs (idle s)) ∨
    (s.halted = false ∧ ¬ s.pc.toNat ≤ 4094 ∧
      t = sampleInputs (raise s.pc (rangeTrap .memRangeFetch s.pc.toNat) (tick s))) ∨
    (∃ op e, Safety.Fetches s op ∧ decodeWord op = .error e ∧
      t = sampleInputs (raise s.pc ⟨.unknownOpcode, op.setWidth 17⟩ (advance (tick s)))) ∨
    (∃ op i u, Safety.Fetches s op ∧ decodeWord op = .ok i ∧ exec i (advance (tick s)) = .next u ∧
      t = sampleInputs u) := by
  simp only [step, cycleThenInputs, cycle, fetch_eq] at h
  cases hh : s.halted with
  | true =>
    left
    simp only [hh, if_true] at h
    exact ⟨rfl, by simpa using h.symm⟩
  | false =>
    right
    simp only [hh, Bool.false_eq_true, if_false] at h
    by_cases hpc : s.pc.toNat ≤ 4094
    · right
      simp only [hpc, if_true] at h
      cases hd : decodeWord (wordOfBytes (byteAt s s.pc.toNat) (byteAt s (s.pc.toNat + 1))) with
      | error e =>
        left
        simp only [hd] at h
        exact ⟨_, e, ⟨hh, hpc, rfl⟩, hd, by simpa using h.symm⟩
      | ok i =>
        right
        simp only [hd] at h
        cases hx : exec i (advance (tick s)) with
        | next u =>
          simp only [hx] at h
          exact ⟨_, i, u, ⟨hh, hpc, rfl⟩, hd, hx, by simpa using h.symm⟩
        | fault r => exact r.casesOn
        | refused r => simp only [hx] at h; cases h
    · left
      simp only [hpc, if_false] at h
      exact ⟨rfl, hpc, by simpa using h.symm⟩

end Sys2Proof.Machine
end

