-- ==== Sys2Proof/Laws/Decode.lean ====
section
/-! SUPPORT. The fields of the words the encoder writes (30_encoding.md R61, R62), and those words under the masks
of the opcode map (R65). -/

namespace Sys2Proof

@[simp] theorem family_wordNnn (f : BitVec 4) (nnn : BitVec 12) : family (wordNnn f nnn) = f := by
  apply BitVec.eq_of_getLsbD_eq; intro k hk; simp [family, wordNnn]; grind

@[simp] theorem fieldNnn_wordNnn (f : BitVec 4) (nnn : BitVec 12) : fieldNnn (wordNnn f nnn) = nnn := by
  apply BitVec.eq_of_getLsbD_eq; intro k hk; simp [fieldNnn, wordNnn]; grind

@[simp] theorem family_wordXnn (f : BitVec 4) (x : Reg) (nn : Byte) : family (wordXnn f x nn) = f := by
  apply BitVec.eq_of_getLsbD_eq; intro k hk; simp [family, wordXnn]; grind

@[simp] theorem fieldX_wordXnn (f : BitVec 4) (x : Reg) (nn : Byte) : fieldX (wordXnn f x nn) = x := by
  apply BitVec.eq_of_getLsbD_eq; intro k hk; simp [fieldX, wordXnn]; grind

@[simp] theorem fieldNn_wordXnn (f : BitVec 4) (x : Reg) (nn : Byte) : fieldNn (wordXnn f x nn) = nn := by
  apply BitVec.eq_of_getLsbD_eq; intro k hk; simp [fieldNn, wordXnn]; grind

@[simp] theorem family_wordXyn (f : BitVec 4) (x y : Reg) (n : BitVec 4) : family (wordXyn f x y n) = f := by
  apply BitVec.eq_of_getLsbD_eq; intro k hk; simp [family, wordXyn]; grind

@[simp] theorem fieldX_wordXyn (f : BitVec 4) (x y : Reg) (n : BitVec 4) : fieldX (wordXyn f x y n) = x := by
  apply BitVec.eq_of_getLsbD_eq; intro k hk; simp [fieldX, wordXyn]; grind

@[simp] theorem fieldY_wordXyn (f : BitVec 4) (x y : Reg) (n : BitVec 4) : fieldY (wordXyn f x y n) = y := by
  apply BitVec.eq_of_getLsbD_eq; intro k hk; simp [fieldY, wordXyn]; grind

@[simp] theorem fieldN_wordXyn (f : BitVec 4) (x y : Reg) (n : BitVec 4) : fieldN (wordXyn f x y n) = n := by
  apply BitVec.eq_of_getLsbD_eq; intro k hk; simp [fieldN, wordXyn]; grind

/-! Under the masks. -/

@[simp] theorem and_allOnes4 (v : BitVec 4) : v &&& 0xF#4 = v := BitVec.and_allOnes

@[simp] theorem and_allOnes8 (v : Byte) : v &&& 0xFF#8 = v := BitVec.and_allOnes

theorem wordNnn_and_F000 (f : BitVec 4) (nnn : BitVec 12) : wordNnn f nnn &&& 0xF000 = wordNnn f 0 := by
  have h : (0xF000 : Word) = wordNnn 0xF 0 := by decide
  rw [h]; unfold wordNnn; rw [BitVec.and_append]
  simp

theorem wordXnn_and_F000 (f : BitVec 4) (x : Reg) (nn : Byte) : wordXnn f x nn &&& 0xF000 = wordXnn f 0 0 := by
  have h : (0xF000 : Word) = wordXnn 0xF 0 0 := by decide
  rw [h]; unfold wordXnn; rw [BitVec.and_append, BitVec.and_append]
  simp

theorem wordXnn_and_F0FF (f : BitVec 4) (x : Reg) (nn : Byte) : wordXnn f x nn &&& 0xF0FF = wordXnn f 0 nn := by
  have h : (0xF0FF : Word) = wordXnn 0xF 0 0xFF := by decide
  rw [h]; unfold wordXnn; rw [BitVec.and_append, BitVec.and_append]
  simp

theorem wordXyn_and_F000 (f : BitVec 4) (x y : Reg) (n : BitVec 4) :
    wordXyn f x y n &&& 0xF000 = wordXyn f 0 0 0 := by
  have h : (0xF000 : Word) = wordXyn 0xF 0 0 0 := by decide
  rw [h]; unfold wordXyn; rw [BitVec.and_append, BitVec.and_append, BitVec.and_append]
  simp

theorem wordXyn_and_F00F (f : BitVec 4) (x y : Reg) (n : BitVec 4) :
    wordXyn f x y n &&& 0xF00F = wordXyn f 0 0 n := by
  have h : (0xF00F : Word) = wordXyn 0xF 0 0 0xF := by decide
  rw [h]; unfold wordXyn; rw [BitVec.and_append, BitVec.and_append, BitVec.and_append]
  simp

/-- The word of two bytes as a number, the byte at the lower address the high one (20_memory.md R41). -/
theorem wordOfBytes_toNat (hi lo : Byte) : (wordOfBytes hi lo).toNat = 256 * hi.toNat + lo.toNat := by
  have h := lo.isLt
  rw [wordOfBytes, BitVec.toNat_append, ← Nat.shiftLeft_add_eq_or_of_lt h, Nat.shiftLeft_eq]
  omega

/-- The two bytes of a word are that word again (20_memory.md R41). -/
@[simp] theorem wordOfBytes_bytesOfWord (op : Word) :
    wordOfBytes (op.extractLsb' 8 8) (op.extractLsb' 0 8) = op := by
  apply BitVec.eq_of_getLsbD_eq; intro k hk; simp [wordOfBytes]; grind

end Sys2Proof
end

