-- ==== Sys2Proof/Laws/Display.lean ====
section
/-! SUPPORT. The laws of the display engine: one toggle, one target, one sprite row, all rows. -/

namespace Sys2Proof.Machine

open Sys2Proof.Safety

/-- A toggle inverts its pixel and leaves every other alone (43_display.md R141). -/
@[simp] theorem pixel_toggle (d : Display) (r r' : Fin 32) (c c' : Fin 64) :
    pixel (toggle d r c) r' c' = (pixel d r' c' ^^ decide (r' = r ∧ c' = c)) := by
  simp only [pixel, toggle, Fin.getElem_fin, Vector.getElem_set]
  by_cases hr : r' = r
  · subst hr
    by_cases hc : c' = c
    · subst hc; simp
    · have : ¬ c.val = c'.val := fun e => hc (Fin.ext e.symm)
      simp [hc, this]
  · have : ¬ r.val = r'.val := fun e => hr (Fin.ext e.symm)
    simp [hr, this]

@[simp] theorem pixel_blank (r : Fin 32) (c : Fin 64) : pixel blank r c = false := by simp [pixel, blank]

/-- WRAP: every sprite position has a target, modulo the display's size (43_display.md R141). -/
theorem target_wrap (cx cy row col : Nat) (r : Fin 32) (c : Fin 64) :
    target .wrap cx cy row col = some (r, c) ↔ r.val = (cy + row) % 32 ∧ c.val = (cx + col) % 64 := by
  simp [target, Fin.ext_iff, eq_comm]

/-- CLAMP: a sprite position has a target only inside the display (43_display.md R141). -/
theorem target_clamp (cx cy row col : Nat) (r : Fin 32) (c : Fin 64) :
    target .clamp cx cy row col = some (r, c) ↔ r.val = cy + row ∧ c.val = cx + col := by
  have hr := r.isLt
  have hc := c.isLt
  simp only [target]
  split
  · simp [Fin.ext_iff, eq_comm]
  · simp; omega

/-- One of the columns `cols` of a sprite row has its bit set and falls on the pixel (43_display.md R142). -/
def RowHits (mode : DisplayMode) (cx cy row : Nat) (bits : Byte) (cols : List Nat) (r : Fin 32) (c : Fin 64) : Prop :=
  ∃ col ∈ cols, bits.getLsbD (7 - col) = true ∧ FallsOn mode cx cy row col r c

/-- Both modes at once. -/
theorem target_eq_some (mode : DisplayMode) (cx cy row col : Nat) (r : Fin 32) (c : Fin 64) :
    target mode cx cy row col = some (r, c) ↔ FallsOn mode cx cy row col r c := by
  cases mode with
  | wrap => exact target_wrap _ _ _ _ _ _
  | clamp => exact target_clamp _ _ _ _ _ _

/-- Where CLAMP abandons a row, no later column falls on a pixel (43_display.md R142). -/
theorem not_fallsOn_of_target_none (cx cy row col : Nat) (mode : DisplayMode)
    (h : target mode cx cy row col = none) (col' : Nat) (hc : col ≤ col') (r : Fin 32) (c : Fin 64) :
    ¬ FallsOn mode cx cy row col' r c := by
  cases mode with
  | wrap => simp [target] at h
  | clamp =>
    simp [target] at h
    intro ⟨h1, h2⟩
    have := r.isLt
    have := c.isLt
    omega

/-- Distinct sprite positions fall on distinct pixels. -/
theorem fallsOn_inj {mode : DisplayMode} {cx cy row col row' col' : Nat} {r : Fin 32} {c : Fin 64}
    (h : FallsOn mode cx cy row col r c) (h' : FallsOn mode cx cy row' col' r c) (hr : row < 16) (hr' : row' < 16)
    (hc : col < 8) (hc' : col' < 8) : row = row' ∧ col = col' := by
  cases mode <;> simp only [FallsOn] at h h' <;> omega

/-- Everything one sprite row does: the pixels it hits are toggled, and the collision says whether one of them was
on. -/
theorem drawCols_spec (mode : DisplayMode) (cx cy row : Nat) (bits : Byte) (hrow : row < 16) (cols : List Nat)
    (hs : cols.Pairwise (· < ·)) (hl : ∀ c ∈ cols, c < 8) (acc : Display × Bool) :
    (∀ r c, pixel (drawCols mode cx cy row bits cols acc).1 r c = true ↔
      (RowHits mode cx cy row bits cols r c ↔ pixel acc.1 r c = false)) ∧
    ((drawCols mode cx cy row bits cols acc).2 = true ↔
      acc.2 = true ∨ ∃ r c, RowHits mode cx cy row bits cols r c ∧ pixel acc.1 r c = true) := by
  induction cols generalizing acc with
  | nil => simp [drawCols, RowHits]
  | cons k rest ih =>
    simp only [List.pairwise_cons] at hs
    simp only [drawCols]
    split
    · rename_i hb
      split
      · rename_i ht
        have : ∀ r c, ¬ RowHits mode cx cy row bits (k :: rest) r c := by
          rintro r c ⟨col, hm, -, hf⟩
          refine not_fallsOn_of_target_none _ _ _ _ _ ht col ?_ r c hf
          rcases List.mem_cons.1 hm with rfl | hm
          · exact le_refl _
          · exact le_of_lt (hs.1 _ hm)
        simp [this]
      · rename_i r0 c0 ht
        have ht := (target_eq_some ..).1 ht
        obtain ⟨i1, i2⟩ := ih hs.2 (fun c hc => hl c (List.mem_cons_of_mem _ hc))
          (toggle acc.1 r0 c0, acc.2 || pixel acc.1 r0 c0)
        have key : ∀ r c, RowHits mode cx cy row bits (k :: rest) r c ↔
            (r = r0 ∧ c = c0) ∨ RowHits mode cx cy row bits rest r c := by
          intro r c
          constructor
          · rintro ⟨col, hm, hb, hf⟩
            rcases List.mem_cons.1 hm with rfl | hm
            · left
              cases mode <;> simp only [FallsOn] at hf ht <;> constructor <;> apply Fin.ext <;> omega
            · exact .inr ⟨col, hm, hb, hf⟩
          · rintro (⟨rfl, rfl⟩ | ⟨col, hm, hb, hf⟩)
            · exact ⟨k, by simp, hb, ht⟩
            · exact ⟨col, List.mem_cons_of_mem _ hm, hb, hf⟩
        have nk : ¬ RowHits mode cx cy row bits rest r0 c0 := by
          rintro ⟨col, hm, hb, hf⟩
          have := (fallsOn_inj ht hf hrow hrow (hl _ (by simp)) (hl _ (by simp [hm]))).2
          have := hs.1 _ hm
          omega
        constructor
        · intro r c
          rw [i1, key, pixel_toggle]
          by_cases h : r = r0 ∧ c = c0
          · obtain ⟨rfl, rfl⟩ := h
            simp [nk]
          · simp [h]
        · rw [i2]
          constructor
          · rintro (h | ⟨r, c, h, hp⟩)
            · simp only [Bool.or_eq_true] at h
              rcases h with h | h
              · exact .inl h
              · exact .inr ⟨r0, c0, (key _ _).2 (.inl ⟨rfl, rfl⟩), h⟩
            · right
              refine ⟨r, c, (key _ _).2 (.inr h), ?_⟩
              rw [pixel_toggle] at hp
              have : ¬ (r = r0 ∧ c = c0) := by rintro ⟨rfl, rfl⟩; exact nk h
              simpa [this] using hp
          · rintro (h | ⟨r, c, h, hp⟩)
            · simp [h]
            · rcases (key _ _).1 h with ⟨rfl, rfl⟩ | h
              · simp [hp]
              · right
                refine ⟨r, c, h, ?_⟩
                have : ¬ (r = r0 ∧ c = c0) := by rintro ⟨rfl, rfl⟩; exact nk h
                simp [pixel_toggle, this, hp]
    · rename_i hb
      have key : ∀ r c, RowHits mode cx cy row bits (k :: rest) r c ↔ RowHits mode cx cy row bits rest r c := by
        intro r c; simp [RowHits, hb]
      simp only [key]
      exact ih hs.2 (fun c hc => hl c (List.mem_cons_of_mem _ hc)) acc

/-- A set bit of the sprite rows `sp`, the first of which has number `row`, falls on the pixel. -/
def RowsHit (mode : DisplayMode) (cx cy row : Nat) (sp : List Byte) (r : Fin 32) (c : Fin 64) : Prop :=
  ∃ k, ∃ h : k < sp.length, RowHits mode cx cy (row + k) (sp[k]) spriteCols r c

/-- Everything the sprite rows do. -/
theorem drawRows_spec (mode : DisplayMode) (cx cy row : Nat) (sp : List Byte)
    (hrow : row + sp.length ≤ 16) (acc : Display × Bool) :
    (∀ r c, pixel (drawRows mode cx cy row sp acc).1 r c = true ↔
      (RowsHit mode cx cy row sp r c ↔ pixel acc.1 r c = false)) ∧
    ((drawRows mode cx cy row sp acc).2 = true ↔
      acc.2 = true ∨ ∃ r c, RowsHit mode cx cy row sp r c ∧ pixel acc.1 r c = true) := by
  induction sp generalizing acc row with
  | nil => simp [drawRows, RowsHit]
  | cons b rest ih =>
    simp only [List.length_cons] at hrow
    simp only [drawRows]
    obtain ⟨c1, c2⟩ := drawCols_spec mode cx cy row b (by omega) spriteCols (by decide) (by decide) acc
    obtain ⟨i1, i2⟩ := ih (row + 1) (by omega) (drawCols mode cx cy row b spriteCols acc)
    have key : ∀ r c, RowsHit mode cx cy row (b :: rest) r c ↔
        RowHits mode cx cy row b spriteCols r c ∨ RowsHit mode cx cy (row+1) rest r c := by
      intro r c
      constructor
      · rintro ⟨k, hk, h⟩
        cases k with
        | zero => left; simpa using h
        | succ k => right; exact ⟨k, by simpa using hk, by simpa [Nat.add_assoc, Nat.add_comm 1] using h⟩
      · rintro (h | ⟨k, hk, h⟩)
        · exact ⟨0, by simp, by simpa using h⟩
        · exact ⟨k + 1, by simpa using hk, by simpa [Nat.add_assoc, Nat.add_comm 1] using h⟩
    have ex : ∀ r c, RowHits mode cx cy row b spriteCols r c → ¬ RowsHit mode cx cy (row+1) rest r c := by
      rintro r c ⟨col, hm, hb, hf⟩ ⟨k, hk, col', hm', hb', hf'⟩
      have l : ∀ c ∈ spriteCols, c < 8 := by decide
      have := (fallsOn_inj hf hf' (by omega) (by omega) (l _ hm) (l _ hm')).1
      omega
    constructor
    · intro r c
      have := c1 r c
      have := ex r c
      rw [i1, key]
      cases hp : pixel acc.1 r c <;> cases hp' : pixel (drawCols mode cx cy row b spriteCols acc).1 r c <;> simp_all
    · rw [i2, c2]
      constructor
      · rintro ((h | ⟨r, c, h, hp⟩) | ⟨r, c, h, hp⟩)
        · exact .inl h
        · exact .inr ⟨r, c, (key _ _).2 (.inl h), hp⟩
        · refine .inr ⟨r, c, (key _ _).2 (.inr h), ?_⟩
          have hn : ¬ RowHits mode cx cy row b spriteCols r c := fun a => ex _ _ a h
          have := (c1 r c).1 hp
          simpa [hn] using this
      · rintro (h | ⟨r, c, h, hp⟩)
        · exact .inl (.inl h)
        · rcases (key _ _).1 h with h | h
          · exact .inl (.inr ⟨r, c, h, hp⟩)
          · refine .inr ⟨r, c, h, ?_⟩
            have hn : ¬ RowHits mode cx cy row b spriteCols r c := fun a => ex _ _ a h
            rw [c1]; simp [hn, hp]

end Sys2Proof.Machine
end

