-- ==== Sys2Proof/Laws/Fetch.lean ====
section
/-! SUPPORT. A word placed by `withFetchWord` is the word the next cycle fetches (log 15). -/

namespace Sys2Proof.Machine

/-- After placing a word the next cycle fetches it. -/
theorem fetches_placeWord (s : State) (op : Word) : Safety.Fetches (placeWord s op) op := by
  have hpc : (placeWord s op).pc.toNat + 1 ≤ 4095 := by
    simp only [placeWord]
    split
    · decide
    · omega
  refine ⟨rfl, by omega, ?_⟩
  have hm : ∀ a, byteAt (placeWord s op) a =
      Memory.peek s.font (Memory.pokes s.font s.mem (placeWord s op).pc.toNat (bytesOfWord op)) a := fun _ => rfl
  have hl : (placeWord s op).pc.toNat + (bytesOfWord op).length ≤ 4096 := by simp [bytesOfWord]; omega
  rw [hm, hm, Memory.peek_pokes _ _ _ _ hl, Memory.peek_pokes _ _ _ _ hl]
  simp [bytesOfWord]

/-- So it is for the host's placing of a word. -/
theorem fetches_withFetchWord (s : State) (nbits w : Nat) :
    Safety.Fetches (s.withFetchWord nbits w) (tableWord nbits w) :=
  fetches_placeWord s _

end Sys2Proof.Machine
end

