-- ==== Sys2Proof/Laws/Operands.lean ====
section
/-! SUPPORT. The values of the operand forms and of the flags as numbers, and the bytes register-dump moves. -/

namespace Sys2Proof.Machine

@[simp] theorem addr16_toNat (nnn : BitVec 12) : (addr16 nnn).toNat = nnn.toNat := by
  have := nnn.isLt
  simp [addr16]; omega

@[simp] theorem reg16_toNat (s : State) (r : Reg) : (reg16 s r).toNat = (reg s r).toNat := by
  have := (reg s r).isLt
  simp [reg16]; omega

/-- The glyph address of a digit (42_address_memory.md R132). -/
theorem glyphAddr_toNat (a : Byte) : (glyphAddr a).toNat = 5 * a.toNat := by
  have := a.isLt
  simp [glyphAddr, Config.glyphBytes]; omega

theorem setWidth17_eq {w : Nat} (v : BitVec w) : v.setWidth 17 = BitVec.ofNat 17 v.toNat := by
  apply BitVec.eq_of_toNat_eq; simp

theorem decimalDigits_length (a : Byte) : (decimalDigits a).length = 3 := rfl

theorem regsUpTo_length (s : State) (x : Reg) : (regsUpTo s x).length = x.toNat + 1 := by
  have := x.isLt
  simp [regsUpTo]; omega

/-- Byte `k` of what register-dump writes is x[k] (42_address_memory.md R134). -/
theorem regsUpTo_getElem? (s : State) (x r : Reg) (h : r.toNat ≤ x.toNat) :
    (regsUpTo s x)[r.toNat]? = some (reg s r) := by
  have := r.isLt
  simp [regsUpTo, show r.toNat < x.toNat + 1 by omega, reg]

/-- A flag byte is 1 exactly when its condition holds (10_state.md R21 b). -/
@[simp] theorem flagByte_eq_one (b : Bool) : flagByte b = 1#8 ↔ b = true := by cases b <;> decide

@[simp] theorem flagByte_eq_zero (b : Bool) : flagByte b = 0#8 ↔ b = false := by cases b <;> decide

end Sys2Proof.Machine
end

