-- ==== Sys2Proof/Laws/Frame.lean ====
section
/-! SUPPORT. What each named update keeps, in the terms of Safety.lean, and what raising leaves. -/

namespace Sys2Proof.Machine

open Sys2Proof.Safety

theorem keepsAllBut_setPc (s : State) (v : Word) : KeepsAllBut [.pc] s (setPc s v) := by
  intro p hp; cases p <;> simp_all [Keeps]

theorem keepsAllBut_setIndex (s : State) (v : Word) : KeepsAllBut [.index] s (setIndex s v) := by
  intro p hp; cases p <;> simp_all [Keeps]

theorem keepsAllBut_setReg (s : State) (x : Reg) (v : Byte) : KeepsAllBut [.regs] s (setReg s x v) := by
  intro p hp; cases p <;> simp_all [Keeps]

theorem keepsAllBut_setRegFlag (s : State) (x : Reg) (v f : Byte) :
    KeepsAllBut [.regs] s (setRegFlag s x v f) := by
  intro p hp; cases p <;> simp_all [Keeps]

theorem keepsAllBut_setRegs (s : State) (bs : List Byte) : KeepsAllBut [.regs] s (setRegs s bs) := by
  intro p hp; cases p <;> simp_all [Keeps]

theorem keepsAllBut_setMem (s : State) (m : Memory) : KeepsAllBut [.memory] s (setMem s m) := by
  intro p hp; cases p <;> simp_all [Keeps]

theorem keepsAllBut_setDisplay (s : State) (d : Display) : KeepsAllBut [.display] s (setDisplay s d) := by
  intro p hp; cases p <;> simp_all [Keeps]

theorem keepsAllBut_setDt (s : State) (v : Byte) : KeepsAllBut [.dt] s (setDt s v) := by
  intro p hp; cases p <;> simp_all [Keeps]

theorem keepsAllBut_setSt (s : State) (v : Byte) : KeepsAllBut [.st] s (setSt s v) := by
  intro p hp; cases p <;> simp_all [Keeps]

/-- A register write, all of it. -/
theorem writesReg_setReg (s : State) (x : Reg) (v : Byte) : WritesReg x v s (setReg s x v) := by
  refine ⟨by simp, fun r hr => ?_, keepsAllBut_setReg s x v⟩
  simp only [List.mem_singleton] at hr
  simp [hr]

/-- A result write and the flag write after it, all of it (10_state.md R24). -/
theorem writesRegThenFlag_setRegFlag (s : State) (x : Reg) (v : Byte) {b : Bool} {q : Prop} (h : b = true ↔ q) :
    WritesRegThenFlag x v q s (setRegFlag s x v (flagByte b)) := by
  refine ⟨fun hx => ?_, ?_, fun r hr => ?_, keepsAllBut_setRegFlag s x v _⟩
  · simp only [reg_setRegFlag, vf, if_true]
    exact if_neg hx
  · cases b <;> simp_all [flagByte, vf]
  · simp only [List.mem_cons, List.not_mem_nil, or_false, not_or] at hr
    simp only [reg_setRegFlag, vf, hr.1, if_false]
    exact if_neg hr.2

/-- A skip, taken or not. -/
theorem skipsWhen_skipIf (s : State) {c : Bool} {q : Prop} (h : c = true ↔ q) : SkipsWhen q s (skipIf c s) := by
  cases c with
  | false =>
    have hq : ¬ q := by simpa using h
    refine ⟨fun a => absurd a hq, fun _ => rfl, fun p _ => ?_⟩
    cases p <;> simp [Keeps, skipIf]
  | true =>
    have hq : q := by simpa using h
    exact ⟨fun _ => rfl, fun a => absurd hq a, keepsAllBut_setPc s _⟩

/-- What raising leaves (60_exceptions.md R161). -/
theorem raised_raise (s : State) (e : Trap) {c : BitVec 4} {n : Nat} (h1 : e.cause.code = c)
    (h2 : e.info = BitVec.ofNat 17 n) : Raised c n s (raise (pc0 s) e s) := by
  simp [Raised, Keeps, pc0, h1, h2]

end Sys2Proof.Machine
end

