-- ==== Sys2Proof/Laws/PerInstr.lean ====
section
/-! SUPPORT. Statements about every instruction, one lemma per constructor. OpcodeMatch: the word the encoder
writes for an instruction has, under the mask of its row of the opcode map, the row's match (30_encoding.md R65). -/

namespace Sys2Proof.Laws.OpcodeMatch

/-- The word of `i` is covered by the row of `i`, `op AND mask = match`. -/
def Statement (i : Instr) : Prop := encodeWord i &&& (opcodeRow i).mask = (opcodeRow i).pattern

theorem cls : Statement (.cls) := rfl

theorem ret : Statement (.ret) := rfl

theorem jp (nnn : BitVec 12) : Statement (.jp nnn) := (wordNnn_and_F000 0x1 nnn).trans rfl

theorem call (nnn : BitVec 12) : Statement (.call nnn) := (wordNnn_and_F000 0x2 nnn).trans rfl

theorem seVxNn (x : Reg) (nn : Byte) : Statement (.seVxNn x nn) := (wordXnn_and_F000 0x3 x nn).trans rfl

theorem sneVxNn (x : Reg) (nn : Byte) : Statement (.sneVxNn x nn) := (wordXnn_and_F000 0x4 x nn).trans rfl

theorem seVxVy (x y : Reg) (n : BitVec 4) : Statement (.seVxVy x y n) := (wordXyn_and_F000 0x5 x y n).trans rfl

theorem ldVxNn (x : Reg) (nn : Byte) : Statement (.ldVxNn x nn) := (wordXnn_and_F000 0x6 x nn).trans rfl

theorem addVxNn (x : Reg) (nn : Byte) : Statement (.addVxNn x nn) := (wordXnn_and_F000 0x7 x nn).trans rfl

theorem ldVxVy (x y : Reg) : Statement (.ldVxVy x y) := (wordXyn_and_F00F 0x8 x y 0x0).trans rfl

theorem orVxVy (x y : Reg) : Statement (.orVxVy x y) := (wordXyn_and_F00F 0x8 x y 0x1).trans rfl

theorem andVxVy (x y : Reg) : Statement (.andVxVy x y) := (wordXyn_and_F00F 0x8 x y 0x2).trans rfl

theorem xorVxVy (x y : Reg) : Statement (.xorVxVy x y) := (wordXyn_and_F00F 0x8 x y 0x3).trans rfl

theorem addVxVy (x y : Reg) : Statement (.addVxVy x y) := (wordXyn_and_F00F 0x8 x y 0x4).trans rfl

theorem subVxVy (x y : Reg) : Statement (.subVxVy x y) := (wordXyn_and_F00F 0x8 x y 0x5).trans rfl

theorem shrVx (x y : Reg) : Statement (.shrVx x y) := (wordXyn_and_F00F 0x8 x y 0x6).trans rfl

theorem subnVxVy (x y : Reg) : Statement (.subnVxVy x y) := (wordXyn_and_F00F 0x8 x y 0x7).trans rfl

theorem shlVx (x y : Reg) : Statement (.shlVx x y) := (wordXyn_and_F00F 0x8 x y 0xE).trans rfl

theorem sneVxVy (x y : Reg) (n : BitVec 4) : Statement (.sneVxVy x y n) := (wordXyn_and_F000 0x9 x y n).trans rfl

theorem ldINnn (nnn : BitVec 12) : Statement (.ldINnn nnn) := (wordNnn_and_F000 0xA nnn).trans rfl

theorem jpV0Nnn (nnn : BitVec 12) : Statement (.jpV0Nnn nnn) := (wordNnn_and_F000 0xB nnn).trans rfl

theorem rndVxNn (x : Reg) (nn : Byte) : Statement (.rndVxNn x nn) := (wordXnn_and_F000 0xC x nn).trans rfl

theorem drw (x y : Reg) (n : BitVec 4) : Statement (.drw x y n) := (wordXyn_and_F000 0xD x y n).trans rfl

theorem skpVx (x : Reg) : Statement (.skpVx x) := (wordXnn_and_F0FF 0xE x 0x9E).trans rfl

theorem sknpVx (x : Reg) : Statement (.sknpVx x) := (wordXnn_and_F0FF 0xE x 0xA1).trans rfl

theorem ldVxDt (x : Reg) : Statement (.ldVxDt x) := (wordXnn_and_F0FF 0xF x 0x07).trans rfl

theorem ldVxK (x : Reg) : Statement (.ldVxK x) := (wordXnn_and_F0FF 0xF x 0x0A).trans rfl

theorem ldDtVx (x : Reg) : Statement (.ldDtVx x) := (wordXnn_and_F0FF 0xF x 0x15).trans rfl

theorem ldStVx (x : Reg) : Statement (.ldStVx x) := (wordXnn_and_F0FF 0xF x 0x18).trans rfl

theorem addIVx (x : Reg) : Statement (.addIVx x) := (wordXnn_and_F0FF 0xF x 0x1E).trans rfl

theorem ldFVx (x : Reg) : Statement (.ldFVx x) := (wordXnn_and_F0FF 0xF x 0x29).trans rfl

theorem ldBVx (x : Reg) : Statement (.ldBVx x) := (wordXnn_and_F0FF 0xF x 0x33).trans rfl

theorem ldMemVx (x : Reg) : Statement (.ldMemVx x) := (wordXnn_and_F0FF 0xF x 0x55).trans rfl

theorem ldVxMem (x : Reg) : Statement (.ldVxMem x) := (wordXnn_and_F0FF 0xF x 0x65).trans rfl

end Sys2Proof.Laws.OpcodeMatch
end

