-- ==== Sys2Proof/Laws/Stack.lean ====
section
/-! SUPPORT. Everything a push and a pop can do (10_state.md R25). -/

namespace Sys2Proof.Machine

/-- A push completes exactly when the stack is not full; it writes the next free entry and counts up. -/
theorem push_eq (s : State) (v : Word) :
    (s.sp.val < 24 ∧ ∃ t, push s v = some t ∧ t.sp.val = s.sp.val + 1 ∧
      (∀ k : Fin 24, t.stack[k] = if k.val = s.sp.val then v else s.stack[k]) ∧
      t = { s with stack := t.stack, sp := t.sp }) ∨
    (s.sp.val = 24 ∧ push s v = none) := by
  have := s.sp.isLt
  by_cases h : s.sp.val < 24
  · left
    refine ⟨h, _, dif_pos h, rfl, fun k => ?_, rfl⟩
    simp [Vector.getElem_set, eq_comm]
  · right
    exact ⟨by omega, dif_neg h⟩

/-- A pop completes exactly when the stack is not empty; it answers the last entry and counts down. -/
theorem pop_eq (s : State) :
    (0 < s.sp.val ∧ ∃ v t, pop s = some (v, t) ∧ t.sp.val = s.sp.val - 1 ∧
      (∀ k : Fin 24, k.val = s.sp.val - 1 → v = s.stack[k]) ∧ t = { s with sp := t.sp }) ∨
    (s.sp.val = 0 ∧ pop s = none) := by
  by_cases h : 0 < s.sp.val
  · left
    refine ⟨h, _, _, dif_pos h, rfl, fun k hk => ?_, rfl⟩
    simp [hk]
  · right
    exact ⟨by omega, dif_neg h⟩

end Sys2Proof.Machine
end

