-- ==== Sys2Proof/Tests/Slice0.lean ====
section
/-! SUPPORT. Tests: ill-formed instructions refused, every constructor's decoding, the spec's own vectors
(95_test_vectors.md Part 2, named T<n> there; at most two per instruction), and for every obligation with
hypotheses a concrete input that meets them. -/

namespace Sys2Proof.Tests

open Sys2Proof.Machine Sys2Proof.Safety

/-! ## Helpers -/

/-- The reset state with quiet input lines: no key down, no tick due. -/
def rig : State := { State.reset with keyDown := 0, now := 0, tickRef := 0, tickPeriod := 1, rnd := 0 }

/-- `s` with a tick due in the coming cycle. -/
def due (s : State) : State := { s with now := 1 }

/-- `s` with bytes in Memory. -/
def withBytes (s : State) (a : Nat) (bs : List Byte) : State := setMem s (Memory.pokes s.font s.mem a bs)

/-- The state after the cycle of `s` in which the word `w` is fetched. -/
def run (s : State) (w : Nat) : State :=
  match step (s.withFetchWord 16 w) with
  | .next t => t
  | .fault _ => s
  | .refused _ => s

/-- The bytes of Memory at `a`. -/
def bytesAt (s : State) (a n : Nat) : List Byte := (List.range n).map fun k => byteAt s (a + k)

/-- The fault record: latch, cause, address, information. -/
def record (s : State) : Bool × Nat × Nat × Nat := (s.halted, s.cause.toNat, s.faultPc.toNat, s.faultInfo.toNat)

/-! ## Well-formedness (30_encoding.md R64, R67, R69) -/

theorem test_wellFormed_seVxVy : (Instr.seVxVy 1 2 0xF).wellFormed = false := by decide
theorem test_wellFormed_sneVxVy : (Instr.sneVxVy 1 2 1).wellFormed = false := by decide
theorem test_wellFormed_shrVx : (Instr.shrVx 1 8).wellFormed = false := by decide
theorem test_wellFormed_shlVx : (Instr.shlVx 1 1).wellFormed = false := by decide
theorem test_wellFormed_accepts : (Instr.seVxVy 1 2 0).wellFormed = true ∧ (Instr.shlVx 0xF 0).wellFormed = true := by
  decide

/-! ## Decoding (words from 95_test_vectors.md Part 3 and 30_encoding.md R69; the others written out from R61 and
R65) -/

theorem test_decode_cls : decodeWord 0x00E0 = .ok .cls := by decide
theorem test_decode_ret : decodeWord 0x00EE = .ok .ret := by decide
theorem test_decode_jp : decodeWord 0x1ABC = .ok (.jp 0xABC) := by decide
theorem test_decode_call : decodeWord 0x2FFF = .ok (.call 0xFFF) := by decide
theorem test_decode_seVxNn : decodeWord 0x3A7F = .ok (.seVxNn 0xA 0x7F) := by decide
theorem test_decode_sneVxNn : decodeWord 0x4A05 = .ok (.sneVxNn 0xA 0x05) := by decide
theorem test_decode_seVxVy : decodeWord 0x5AB7 = .ok (.seVxVy 0xA 0xB 0x7) := by decide
theorem test_decode_ldVxNn : decodeWord 0x65F5 = .ok (.ldVxNn 0x5 0xF5) := by decide
theorem test_decode_addVxNn : decodeWord 0x71FF = .ok (.addVxNn 0x1 0xFF) := by decide
theorem test_decode_ldVxVy : decodeWord 0x8120 = .ok (.ldVxVy 0x1 0x2) := by decide
theorem test_decode_orVxVy : decodeWord 0x8121 = .ok (.orVxVy 0x1 0x2) := by decide
theorem test_decode_andVxVy : decodeWord 0x8122 = .ok (.andVxVy 0x1 0x2) := by decide
theorem test_decode_xorVxVy : decodeWord 0x8123 = .ok (.xorVxVy 0x1 0x2) := by decide
theorem test_decode_addVxVy : decodeWord 0x8AB4 = .ok (.addVxVy 0xA 0xB) := by decide
theorem test_decode_subVxVy : decodeWord 0x8F15 = .ok (.subVxVy 0xF 0x1) := by decide
theorem test_decode_shrVx : decodeWord 0x8306 = .ok (.shrVx 0x3 0x0) := by decide
theorem test_decode_subnVxVy : decodeWord 0x8017 = .ok (.subnVxVy 0x0 0x1) := by decide
theorem test_decode_shlVx : decodeWord 0x8ABE = .ok (.shlVx 0xA 0xB) := by decide
theorem test_decode_sneVxVy : decodeWord 0x9120 = .ok (.sneVxVy 0x1 0x2 0x0) := by decide
theorem test_decode_ldINnn : decodeWord 0xA2F0 = .ok (.ldINnn 0x2F0) := by decide
theorem test_decode_jpV0Nnn : decodeWord 0xB123 = .ok (.jpV0Nnn 0x123) := by decide
theorem test_decode_rndVxNn : decodeWord 0xC5F0 = .ok (.rndVxNn 0x5 0xF0) := by decide
theorem test_decode_drw : decodeWord 0xD12F = .ok (.drw 0x1 0x2 0xF) := by decide
theorem test_decode_skpVx : decodeWord 0xE59E = .ok (.skpVx 0x5) := by decide
theorem test_decode_sknpVx : decodeWord 0xECA1 = .ok (.sknpVx 0xC) := by decide
theorem test_decode_ldVxDt : decodeWord 0xF107 = .ok (.ldVxDt 0x1) := by decide
theorem test_decode_ldVxK : decodeWord 0xF20A = .ok (.ldVxK 0x2) := by decide
theorem test_decode_ldDtVx : decodeWord 0xFA15 = .ok (.ldDtVx 0xA) := by decide
theorem test_decode_ldStVx : decodeWord 0xF018 = .ok (.ldStVx 0x0) := by decide
theorem test_decode_addIVx : decodeWord 0xF51E = .ok (.addIVx 0x5) := by decide
theorem test_decode_ldFVx : decodeWord 0xF029 = .ok (.ldFVx 0x0) := by decide
theorem test_decode_ldBVx : decodeWord 0xF133 = .ok (.ldBVx 0x1) := by decide
theorem test_decode_ldMemVx : decodeWord 0xF755 = .ok (.ldMemVx 0x7) := by decide
theorem test_decode_ldVxMem : decodeWord 0xFE65 = .ok (.ldVxMem 0xE) := by decide

/-- T142, T143, T145, T148: unknown words, named by their family. -/
theorem test_decode_rejects :
    decodeWord 0x0123 = .error (.unknownFamily0 0x0123) ∧ decodeWord 0x8008 = .error (.unknownFamily8 0x8008) ∧
    decodeWord 0xE09F = .error (.unknownFamilyE 0xE09F) ∧ decodeWord 0xF000 = .error (.unknownFamilyF 0xF000) := by
  decide

/-- Bytes are read big-endian (95_test_vectors.md Part 3), what follows is left, one byte is too few. -/
theorem test_decode_bytes :
    decode [0x12, 0x34, 0x56] = .ok (.jp 0x234, [0x56]) ∧ decode [0x34, 0x12] = .ok (.seVxNn 0x4 0x12, []) ∧
    decode [0x12] = .error .truncated := by decide

/-- The encoder writes the bytes in the order of 20_memory.md R41. -/
theorem test_encode_bytes : encode (.jp 0x234) = [0x12, 0x34] ∧ encode (.shlVx 0xA 0) = [0x8A, 0x0E] := by decide

theorem test_decodeTableWord :
    decodeTableWord 16 0xD015 = some (.drw 0 1 5) ∧ decodeTableWord 16 0x00E1 = none := by decide

/-! ## Reset, fetch, fatal words -/

/-- 10_state.md R36, 20_memory.md R47: glyph 0 and the last byte of the font. -/
theorem test_reset_font : bytesAt State.reset 0 5 = [0xF0, 0x90, 0x90, 0x90, 0xF0] ∧
    bytesAt State.reset 79 1 = [0x80] := by decide

/-- 00_scope.md R6: the configuration table decides bytes 5 to 79, and glyph 0 is fixed; a store of the font's own byte
is not listed, whatever the table. -/
theorem test_font_table :
    bytesAt { State.reset with font := Vector.replicate 75 0xAA } 4 2 = [0xF0, 0xAA] ∧
    Memory.poke (Vector.replicate 75 0xAA) [] 79 0xAA = [] ∧
    Memory.poke defaultFont [] 79 0xAA = [(79, 0xAA)] := by decide

/-- The word is placed big-endian at `pc`. -/
theorem test_withFetchWord : bytesAt (rig.withFetchWord 16 0x1234) 0x200 2 = [0x12, 0x34] ∧
    (rig.withFetchWord 16 0x1234).pc = 0x200 := by decide

/-- T140 and T141. -/
theorem test_unknown_word : record (run rig 0x00E1) = (true, 1, 0x200, 0xE1) ∧
    record (run rig 0x01E0) = (true, 1, 0x200, 0x1E0) := by decide

/-- T153: a fetch at 0x0FFF. -/
theorem test_fetch_range : ∃ t, step (setPc rig 0x0FFF) = .next t ∧ record t = (true, 5, 0x0FFF, 0xFFF) :=
  ⟨_, rfl, by decide⟩

/-- T155: the last legal fetch address. -/
theorem test_fetch_last : (run (setPc rig 0x0FFE) 0x6A55).pc = 0x1000 ∧ reg (run (setPc rig 0x0FFE) 0x6A55) 0xA = 0x55 := by
  decide

/-- 70_reset_and_hazards.md R196: the first byte of an image at 0x200. -/
theorem test_loadProgram :
    (loadProgram [0x12, 0x34] rig).map (fun s => bytesAt s 0x200 2) = some [0x12, 0x34] := by decide

/-! ## Instructions -/

/-- T98. -/
theorem test_cls : (run (setDisplay rig (toggle (toggle blank 0 0) 31 63)) 0x00E0).fb = blank := by decide

/-- T1, T2. -/
theorem test_ret : (run { rig with sp := 1, stack := rig.stack.set 0 0x0206, pc := 0x0210 } 0x00EE).pc = 0x0206 ∧
    (run { rig with sp := 1, stack := rig.stack.set 0 0x0206, pc := 0x0210 } 0x00EE).sp = 0 := by decide
theorem test_ret_underflow : record (run rig 0x00EE) = (true, 2, 0x200, 0) := by decide

/-- T4, T5. -/
theorem test_jp : (run rig 0x1234).pc = 0x0234 := by decide
theorem test_jp_self : record (run rig 0x1200) = (true, 4, 0x200, 0x200) := by decide

/-- T11, T12. -/
theorem test_call : (run { rig with sp := 23 } 0x2300).pc = 0x0300 ∧ (run { rig with sp := 23 } 0x2300).sp = 24 ∧
    (run { rig with sp := 23 } 0x2300).stack[23] = 0x0202 := by decide
theorem test_call_overflow : record (run { rig with sp := 24 } 0x2300) = (true, 3, 0x200, 0x300) := by decide

/-- T15. -/
theorem test_jpV0Nnn : (run (setReg rig 0 0xFF) 0xBFFF).pc = 0x10FE := by decide

/-- T17, T18. -/
theorem test_seVxNn : (run (setPc rig 0x0206) 0x3100).pc = 0x020A ∧
    (run (setPc (setReg rig 1 1) 0x0206) 0x3100).pc = 0x0208 := by decide

/-- T20, T21. -/
theorem test_sneVxNn : (run (setPc (setReg rig 0xA 6) 0x0300) 0x4A05).pc = 0x0304 ∧
    (run (setPc (setReg rig 0xA 5) 0x0300) 0x4A05).pc = 0x0302 := by decide

/-- T25, T23. -/
theorem test_seVxVy : (run (setReg (setReg rig 1 7) 2 7) 0x512F).pc = 0x0204 ∧
    (run (setReg (setReg rig 1 7) 2 8) 0x5120).pc = 0x0202 := by decide

/-- T26, T27. -/
theorem test_sneVxVy : (run (setReg (setReg rig 1 7) 2 8) 0x9120).pc = 0x0204 ∧
    (run (setReg (setReg rig 1 7) 2 7) 0x9120).pc = 0x0202 := by decide

/-- T31. -/
theorem test_ldVxNn : reg (run rig 0x6F07) 15 = 0x07 := by decide

/-- T33. -/
theorem test_addVxNn : reg (run (setReg rig 0 0xFF) 0x7001) 0 = 0 ∧ reg (run (setReg rig 0 0xFF) 0x7001) 15 = 0 := by
  decide

/-- T35. -/
theorem test_ldVxVy : reg (run (setReg (setReg rig 1 1) 2 9) 0x8120) 1 = 9 := by decide

/-- T36. -/
theorem test_orVxVy : reg (run (setReg (setReg (setReg rig 1 0xF0) 2 0x0F) 15 1) 0x8121) 1 = 0xFF ∧
    reg (run (setReg (setReg (setReg rig 1 0xF0) 2 0x0F) 15 1) 0x8121) 15 = 1 := by decide

/-- T37. -/
theorem test_andVxVy : reg (run (setReg (setReg rig 1 0xF3) 2 0x3F) 0x8122) 1 = 0x33 := by decide

/-- T38. -/
theorem test_xorVxVy : reg (run (setReg (setReg rig 1 0xFF) 2 0x0F) 0x8123) 1 = 0xF0 := by decide

/-- T40, T47. -/
theorem test_addVxVy : reg (run (setReg (setReg rig 0 0xFF) 1 2) 0x8014) 0 = 1 ∧
    reg (run (setReg (setReg rig 0 0xFF) 1 2) 0x8014) 15 = 1 := by decide
theorem test_addVxVy_flag_wins : reg (run (setReg (setReg rig 15 0xF0) 1 0x20) 0x8F14) 15 = 1 := by decide

/-- T50, T52. -/
theorem test_subVxVy : reg (run (setReg (setReg (setReg rig 0 1) 1 2) 15 1) 0x8015) 0 = 0xFF ∧
    reg (run (setReg (setReg (setReg rig 0 1) 1 2) 15 1) 0x8015) 15 = 0 := by decide
theorem test_subVxVy_equal : reg (run (setReg (setReg (setReg rig 0 7) 1 7) 15 1) 0x8015) 15 = 0 := by decide

/-- T58, T57. -/
theorem test_shrVx : reg (run (setReg (setReg rig 0 0x81) 1 4) 0x8016) 0 = 0x40 ∧
    reg (run (setReg (setReg rig 0 0x81) 1 4) 0x8016) 1 = 4 ∧
    reg (run (setReg (setReg rig 0 0x81) 1 4) 0x8016) 15 = 1 := by decide
theorem test_shrVx_even : reg (run (setReg (setReg rig 0 0xFE) 15 1) 0x8006) 15 = 0 := by decide

/-- T61. -/
theorem test_subnVxVy : reg (run (setReg (setReg rig 0 1) 1 2) 0x8017) 0 = 1 ∧
    reg (run (setReg (setReg rig 0 1) 1 2) 0x8017) 15 = 1 := by decide

/-- T63, T65. -/
theorem test_shlVx : reg (run (setReg rig 0 0x81) 0x800E) 0 = 2 ∧ reg (run (setReg rig 0 0x81) 0x800E) 15 = 1 := by
  decide
theorem test_shlVx_clear : reg (run (setReg (setReg rig 0 0x7F) 15 1) 0x800E) 15 = 0 := by decide

/-- T67. -/
theorem test_rndVxNn : reg (run { rig with rnd := 0xA7 } 0xC00F) 0 = 7 := by decide

/-- T71. -/
theorem test_ldINnn : (run (setIndex rig 0x1234) 0xAFFF).i = 0x0FFF := by decide

/-- T76, T77. -/
theorem test_addIVx_flag : reg (run (setIndex rig 0x1000) 0xF01E) 15 = 1 := by decide
theorem test_addIVx_wraps : (run (setReg (setIndex rig 0xFFFF) 0 1) 0xF01E).i = 0 ∧
    reg (run (setReg (setIndex rig 0xFFFF) 0 1) 0xF01E) 15 = 0 := by decide

/-- T80, T81. -/
theorem test_ldFVx : (run (setReg rig 0 0x0F) 0xF029).i = 0x004B := by decide
theorem test_ldFVx_range : record (run (setReg rig 0 0x10) 0xF029) = (true, 8, 0x200, 0x10) := by decide

/-- T83, T86. -/
theorem test_ldBVx : bytesAt (run (setReg (setIndex rig 0x300) 0 0xFE) 0xF033) 0x300 3 = [2, 5, 4] := by decide
theorem test_ldBVx_range : record (run (setReg (setIndex rig 0x0FFE) 0 7) 0xF033) = (true, 7, 0x200, 0x1000) := by
  decide

/-- T88, T92. -/
theorem test_ldMemVx : bytesAt (run (setReg (setReg (setIndex rig 0x304) 0 2) 1 5) 0xF155) 0x304 2 = [2, 5] := by
  decide
theorem test_ldMemVx_range : record (run (setIndex rig 0xFFFF) 0xF055) = (true, 7, 0x200, 0xFFFF) := by decide

/-- T93, T95. -/
theorem test_ldVxMem :
    reg (run (withBytes (setIndex rig 0x300) 0x300 [2, 5, 4, 0x99]) 0xF265) 2 = 4 ∧
    reg (run (withBytes (setIndex rig 0x300) 0x300 [2, 5, 4, 0x99]) 0xF265) 3 = 0 := by decide
theorem test_ldVxMem_range : record (run (setIndex rig 0x0FF1) 0xFF65) = (true, 6, 0x200, 0x1000) := by decide

/-- T103, T107. -/
theorem test_drw_clamp :
    (run (withBytes (setIndex (setReg (setReg rig 1 0x3F) 2 0x1F) 0x300) 0x300 [0xC0]) 0xD121).fb =
      toggle blank 31 63 := by decide
theorem test_drw_wrap :
    (run { withBytes (setIndex (setReg (setReg rig 1 0xFF) 2 0xFF) 0x300) 0x300 [0x81] with mode := .wrap } 0xD121).fb =
      toggle (toggle blank 31 63) 31 6 := by decide

/-- T118, T120. -/
theorem test_skpVx : (run (setReg { rig with keyDown := 0x0020 } 1 5) 0xE19E).pc = 0x0204 := by decide
theorem test_skpVx_range : record (run (setReg { rig with keyDown := 0xFFFF } 1 0x10) 0xE19E) = (true, 9, 0x200, 0x10) := by
  decide

/-- T121, T122. -/
theorem test_sknpVx : (run (setReg rig 1 5) 0xE1A1).pc = 0x0204 ∧
    (run (setReg { rig with keyDown := 0x0020 } 1 5) 0xE1A1).pc = 0x0202 := by decide

/-- T125, T126. -/
theorem test_ldVxK : reg (run (setPc { rig with keyDown := 0x0088 } 0x020A) 0xF20A) 2 = 3 := by decide
theorem test_ldVxK_waits : (run (due { rig with dt := 2, st := 1, pc := 0x020A }) 0xF20A).pc = 0x020A ∧
    (run (due { rig with dt := 2, st := 1, pc := 0x020A }) 0xF20A).dt = 1 ∧
    (run (due { rig with dt := 2, st := 1, pc := 0x020A }) 0xF20A).beep = true := by decide

/-- T130. -/
theorem test_ldVxDt : reg (run (due (setDt rig 42)) 0xF107) 1 = 41 := by decide

/-- T132. -/
theorem test_ldDtVx : (run (due (setDt (setReg rig 0 3) 9)) 0xF015).dt = 3 := by decide

/-- T134. -/
theorem test_ldStVx : (run (due (setSt rig 5)) 0xF018).st = 0 ∧ (run (due (setSt rig 5)) 0xF018).beep = true := by
  decide

/-! ## Witnesses: for every obligation with hypotheses, an input that meets them all; for several clauses, one for
each at the boundary -/

theorem witness_EncodeOfDecodeIsTheWord : decodeWord 0x8AB4 = .ok (.addVxVy 0xA 0xB) := by decide

theorem witness_DecoderFollowsOpcodeMap :
    decodeWord 0xFE65 = .ok (.ldVxMem 0xE) ∧ (opcodeRow (.ldVxMem 0)).covers 0xFE65 = true := by decide

theorem witness_UnknownWordsAreTheFourGroups :
    (∀ w ∈ [0x0000, 0x00E1, 0x8008, 0x800F, 0xE000, 0xEFFF, 0xF000, 0xFFFF],
      (match decodeWord (BitVec.ofNat 16 w) with | .ok _ => false | .error _ => true) = true) ∧
    (∀ w ∈ [0x00E0, 0x00EE, 0x8007, 0x800E, 0xE09E, 0xEFA1, 0xF007, 0xFF65],
      (match decodeWord (BitVec.ofNat 16 w) with | .ok _ => true | .error _ => false) = true) := by decide

/-- At the last address a fetch can use. -/
theorem witness_StepRunsTheDecodedInstruction :
    ∃ s t, Fetches s 0x6A55 ∧ decodeWord 0x6A55 = .ok (.ldVxNn 0xA 0x55) ∧
      exec (.ldVxNn 0xA 0x55) (advance (tick s)) = .next t ∧ s.pc = 4094 :=
  ⟨(setPc rig 4094).withFetchWord 16 0x6A55, _, ⟨rfl, by decide, by decide⟩, by decide, rfl, by decide⟩

theorem witness_UnknownWordIsFatal :
    ∃ s, Fetches s 0xFFFF ∧ ∃ e, decodeWord 0xFFFF = .error e :=
  ⟨rig.withFetchWord 16 0xFFFF, ⟨rfl, by decide, by decide⟩, .unknownFamilyF 0xFFFF, by decide⟩

theorem witness_FetchBeyondMemoryIsFatal : (setPc rig 4095).halted = false ∧ 4094 < (setPc rig 4095).pc.toNat := by
  decide

theorem witness_FatalStateIsForever : (run rig 0x1200).halted = true ∧ 0 < 1 := by decide

theorem witness_TickDecrementsEachTimerOnce :
    (due rig).tickRef + (due rig).tickPeriod ≤ (due rig).now ∧ rig.now < rig.tickRef + rig.tickPeriod := by decide

theorem witness_BeepMarksEachSoundTimerDecrement :
    ∃ t, step ((due (setSt rig 1)).withFetchWord 16 0x6000) = .next t ∧ t.beep = true := ⟨_, rfl, by decide⟩

theorem witness_TimersRiseOnlyByLoads :
    ∃ s t, Fetches s 0x6000 ∧ step s = .next t ∧ t.halted = false ∧
      (∀ x, decodeWord 0x6000 ≠ .ok (.ldDtVx x)) ∧ (∀ x, decodeWord 0x6000 ≠ .ok (.ldStVx x)) :=
  ⟨rig.withFetchWord 16 0x6000, _, ⟨rfl, by decide, by decide⟩, rfl, by decide, by decide, by decide⟩

theorem witness_StrapsAreFixedForTheRun : ∃ t, step (rig.withFetchWord 16 0x1200) = .next t := ⟨_, rfl⟩

theorem witness_LoaderPlacesTheImage :
    (List.replicate 3584 (0 : Byte)).length ≤ 3584 ∧ 3584 < (List.replicate 3585 (0 : Byte)).length := by
  rw [List.length_replicate, List.length_replicate]
  decide

theorem witness_LoaderPlacesTheImage_bytes : 0 < [(0x12 : Byte)].length ∧ (511 < 512 ∨ 512 + 1 ≤ 511) ∧
    (513 < 512 ∨ 512 + [(0x12 : Byte)].length ≤ 513) := by decide

theorem witness_WriteChangesItsByteOnly : (0 ≤ 4095 ∧ 4095 ≤ 4095 ∧ 4095 < 4096) ∧
    memWrite defaultFont [] 4095 7 = .ok [(4095, 7)] ∧
    memWrite defaultFont [] 4096 7 = .error ⟨.memRangeWrite, 4096⟩ := by decide

theorem witness_ReadsAreCheckedAgainstTheLastByte :
    memRead defaultFont [(4095, 7)] 4095 = .ok 7 ∧ memRead defaultFont [] 4096 = .error ⟨.memRangeRead, 4096⟩ ∧
    fetch defaultFont [(4094, 0x12), (4095, 0x34)] 4094 = .ok 0x1234 ∧ fetch defaultFont [] 4095 = .error ⟨.memRangeFetch, 4095⟩ := by decide

/-- A running state at the invariant's bounds. -/
theorem witness_StepKeepsInvariant :
    ∃ s t, Inv s ∧ s.sp = 24 ∧ s.halted = false ∧ step s = .next t := by
  refine ⟨{ rig with sp := 24, stack := Vector.replicate 24 4096, pc := 0x10FE }, _, ⟨?_, ?_, ?_, ?_⟩, rfl, rfl, rfl⟩
  · decide
  · decide
  · decide
  · decide

/-- A state in the fatal state. -/
theorem witness_StepKeepsInvariant_fatal : ∃ s t, Inv s ∧ s.halted = true ∧ step s = .next t := by
  refine ⟨{ rig with halted := true, cause := 9 }, _, ⟨?_, ?_, ?_, ?_⟩, rfl, rfl⟩
  · decide
  · decide
  · decide
  · decide

theorem witness_ReturnPopsIntoPc : 0 < { rig with sp := 24 }.sp.val ∧ 0 < { rig with sp := 1 }.sp.val ∧
    rig.sp.val = 0 ∧ (23 : Fin 24).val = { rig with sp := 24 }.sp.val - 1 := by decide

/-- One address before, at and after the jump's own, which is 0x200 while `pc` is 0x202. -/
theorem witness_JumpGoesToItsTarget :
    (0x1FF#12).toNat ≠ ((advance rig).pc - 2).toNat ∧ (0x200#12).toNat = ((advance rig).pc - 2).toNat ∧
    (0x201#12).toNat ≠ ((advance rig).pc - 2).toNat := by decide

theorem witness_CallPushesTheReturnAddress : rig.sp.val < 24 ∧ { rig with sp := 23 }.sp.val < 24 ∧
    { rig with sp := 24 }.sp.val = 24 := by decide

theorem witness_ReturnUndoesCall :
    ∃ t u, { rig with sp := 23 }.sp.val < 24 ∧ exec (.call 0x300) { rig with sp := 23 } = .next t ∧ u.sp = t.sp ∧
      (∀ k : Fin 24, k.val = 23 → u.stack[k] = t.stack[k]) ∧ reg u 3 ≠ reg t 3 ∧ u.pc ≠ t.pc :=
  ⟨_, setPc (setReg { rig with sp := 24, stack := rig.stack.set 23 0x0200 } 3 9) 0x0304, by decide, rfl, rfl,
    by decide, by decide, by decide⟩

theorem witness_ImmediateSkips : reg rig 1 = 0 ∧ reg rig 1 ≠ 1 := by decide

theorem witness_RegisterSkips : reg rig 1 = reg rig 2 ∧ reg (setReg rig 1 1) 1 ≠ reg (setReg rig 1 1) 2 := by decide

theorem witness_LoadGlyphAddress : (reg (setReg rig 0 15) 0).toNat ≤ 15 ∧ 15 < (reg (setReg rig 0 16) 0).toNat := by
  decide

theorem witness_DecimalDigitsAreStored : (setIndex rig 4093).i.toNat + 2 ≤ 4095 ∧
    4095 < (setIndex rig 4094).i.toNat + 2 ∧ 4095 < (setIndex rig 0xFFFF).i.toNat + 2 := by decide

theorem witness_RegisterDumpStoresRegisters : (setIndex rig 4080).i.toNat + (15#4).toNat ≤ 4095 ∧
    4095 < (setIndex rig 4081).i.toNat + (15#4).toNat ∧ (0#4).toNat ≤ (15#4).toNat := by decide

theorem witness_RegisterLoadReadsRegisters : (setIndex rig 4095).i.toNat + (0#4).toNat ≤ 4095 ∧
    4095 < (setIndex rig 4095).i.toNat + (1#4).toNat ∧ (0#4).toNat < (1#4).toNat := by decide

theorem witness_DumpThenLoadRestoresRegisters :
    ∃ t, (setIndex rig 4080).i.toNat + (15#4).toNat ≤ 4095 ∧ exec (.ldMemVx 15) (setIndex rig 4080) = .next t ∧
      (∀ a, byteAt (setReg t 3 9) a = byteAt t a) ∧ (setReg t 3 9).i = t.i :=
  ⟨_, by decide, rfl, fun _ => rfl, rfl⟩

theorem witness_DrawTogglesExactlyTheSprite :
    ((0#4) = 0 ∨ (setIndex rig 0xFFFF).i.toNat + ((0#4).toNat - 1) ≤ 4095) ∧
    ((15#4) = 0 ∨ (setIndex rig 4081).i.toNat + ((15#4).toNat - 1) ≤ 4095) := by decide

theorem witness_DrawBeyondMemoryIsFatal :
    (1#4) ≠ 0 ∧ 4095 < (setIndex rig 4096).i.toNat + ((1#4).toNat - 1) ∧
    4095 < (setIndex rig 4082).i.toNat + ((15#4).toNat - 1) := by decide

theorem witness_DrawTwiceRestoresTheDisplay :
    ∃ t, ((5#4) = 0 ∨ rig.i.toNat + ((5#4).toNat - 1) ≤ 4095) ∧ exec (.drw 0 1 5) rig = .next t ∧
      reg t 0 = reg rig 0 ∧ reg t 1 = reg rig 1 :=
  ⟨_, by decide, rfl, by decide, by decide⟩

theorem witness_KeySkips : (reg (setReg rig 1 15) 1).toNat ≤ 15 ∧ 15 < (reg (setReg rig 1 16) 1).toNat := by decide

/-- Key 0 alone, key 15 alone, no key. -/
theorem witness_GetKeyTakesTheLowestKeyOrWaits :
    ({ rig with keyDown := 0x0001 }.keyDown.getLsbD 0 = true) ∧
    ({ rig with keyDown := 0x8000 }.keyDown.getLsbD 15 = true ∧
      ∀ j, j < 15 → { rig with keyDown := 0x8000 }.keyDown.getLsbD j = false) ∧
    rig.keyDown = 0 := by decide

theorem witness_WaitingGetKeyMakesNoProgress :
    ∃ s, Fetches s (encodeWord (.ldVxK 2)) ∧ s.keyDown = 0 :=
  ⟨rig.withFetchWord 16 0xF20A, ⟨rfl, by decide, by decide⟩, rfl⟩

theorem witness_FatalExactlyAsTheTableSays :
    rig.halted = false ∧ fatalOf .ret rig = some (2, 0) ∧ fatalOf .cls rig = none ∧
    fatalOf (.ldMemVx 15) (setIndex rig 4081) = some (7, 4096) ∧
    fatalOf (.ldMemVx 15) (setIndex rig 4080) = none := by decide

theorem witness_InstructionsWriteOnlyWhatTheSummaryNames :
    ∃ t, exec (.drw 0 1 5) rig = .next t ∧ t.halted = false := ⟨_, rfl, by decide⟩

theorem witness_OnlySevenInstructionsWriteTheFlag :
    ∃ t u, exec (.addVxVy 0 1) rig = .next t ∧ t.halted = false ∧ writesFlag (.addVxVy 0 1) = true ∧
      exec (.ldVxNn 14 7) rig = .next u ∧ u.halted = false ∧ writesFlag (.ldVxNn 14 7) = false ∧
      fieldXOf (.ldVxNn 14 7) ≠ some 15 :=
  ⟨_, _, rfl, by decide, by decide, rfl, by decide, by decide, by decide⟩

theorem witness_SoundTimerCannotBeRead :
    (∃ t, exec (.ldVxDt 0) rig = .next t ∧ t.halted = false) ∧ ∃ t, exec .ret rig = .next t ∧ t.halted = true :=
  ⟨⟨_, rfl, by decide⟩, _, rfl, by decide⟩

theorem witness_ResetIsTheStateTheSpecGives : 4 < 5 ∧ 74 < 75 ∧ 80 ≤ 80 := by decide

end Sys2Proof.Tests
end

section
/-! The checked accesses to Memory (20_memory.md R43, R44): what each answers in range and what it raises out of
range, and the two statements about them. -/

namespace Sys2Proof.Machine

section AccessRules

variable {f : Font} {m : Memory} {a : Nat}

/-! One rule per access and outcome. -/

theorem memRead_of_le (h : a ≤ 4095) : memRead f m a = .ok (Memory.peek f m a) :=
  if_neg (Nat.not_lt.mpr h)

theorem memRead_of_gt (h : 4095 < a) : memRead f m a = .error (rangeTrap .memRangeRead a) :=
  if_pos h

theorem memWrite_of_le (v : Byte) (h : a ≤ 4095) : memWrite f m a v = .ok (Memory.poke f m a v) :=
  if_neg (Nat.not_lt.mpr h)

theorem memWrite_of_gt (v : Byte) (h : 4095 < a) : memWrite f m a v = .error (rangeTrap .memRangeWrite a) :=
  if_pos h

theorem fetch_of_le {p : Word} (h : p.toNat + 1 ≤ 4095) :
    fetch f m p = .ok (wordOfBytes (Memory.peek f m p.toNat) (Memory.peek f m (p.toNat + 1))) :=
  if_neg (Nat.not_lt.mpr h)

theorem fetch_of_gt {p : Word} (h : 4095 < p.toNat + 1) :
    fetch f m p = .error (rangeTrap .memRangeFetch p.toNat) :=
  if_pos h

/-! Reading after a write, at the address written and at another. -/

theorem Memory.peek_poke_same (b : Byte) : Memory.peek f (Memory.poke f m a b) a = b := by
  rw [Memory.peek_poke, if_pos rfl]

theorem Memory.peek_poke_of_ne {c : Nat} (b : Byte) (h : c ≠ a) :
    Memory.peek f (Memory.poke f m a b) c = Memory.peek f m c := by
  rw [Memory.peek_poke, if_neg h]

end AccessRules

/-- Settles O17: in range the memory answered is the poked one, whose reads `Memory.peek_poke` says; the font's
addresses are no exception, since a poke of the font's own byte unlists the address. -/
theorem writeChangesItsByteOnly : Obligations.WriteChangesItsByteOnly := by
  intro f m a v
  refine ⟨fun h => ⟨Memory.poke f m a v, memWrite_of_le v h, ?_, ?_⟩, fun h => memWrite_of_gt v h⟩
  · exact Memory.peek_poke_same v
  · exact fun c hc => Memory.peek_poke_of_ne v hc

/-- Settles O18, one clause per width and side of the boundary; the big-endian value of the fetched word is
`wordOfBytes_toNat`. -/
theorem readsAreCheckedAgainstTheLastByte : Obligations.ReadsAreCheckedAgainstTheLastByte := by
  intro f m a p
  refine ⟨?read, ?readFatal, ?fetch, ?fetchFatal⟩
  case read => exact memRead_of_le
  case readFatal => exact memRead_of_gt
  case fetch => exact fun h => ⟨_, fetch_of_le h, wordOfBytes_toNat _ _⟩
  case fetchFatal => exact fetch_of_gt

end Sys2Proof.Machine
end

section
/-! The skips on an immediate byte (40_control.md R104, R105): SE Vx,NN and SNE Vx,NN are the one skip operation
`skipIf` on a comparison, and `skipsWhen_skipIf` says what that operation does in either outcome. -/

namespace Sys2Proof.Machine

/-- SE Vx,NN skips on equality (40_control.md R104). -/
theorem exec_seVxNn (s : State) (x : Reg) (nn : Byte) :
    exec (.seVxNn x nn) s = .next (skipIf (reg s x == nn) s) := rfl

/-- SNE Vx,NN skips on inequality (40_control.md R105). -/
theorem exec_sneVxNn (s : State) (x : Reg) (nn : Byte) :
    exec (.sneVxNn x nn) s = .next (skipIf (reg s x != nn) s) := rfl

/-- Settles O25: each instruction is a skip whose Boolean condition decides the stated comparison. -/
theorem immediateSkips : Obligations.ImmediateSkips := by
  intro s x nn
  refine ⟨⟨_, exec_seVxNn s x nn, ?equal⟩, ⟨_, exec_sneVxNn s x nn, ?unequal⟩⟩
  case equal => exact skipsWhen_skipIf s beq_iff_eq
  case unequal => exact skipsWhen_skipIf s bne_iff_ne

end Sys2Proof.Machine
end

section
/-! The instructions that write one register and no flag (41_load_alu.md R110 to R115, R123): each completes with
`setReg` of its value, and `writesReg_setReg` says what that write changes and keeps. -/

namespace Sys2Proof.Machine

open Sys2Proof.Safety

/-! One equation per instruction, with the value it writes. -/

section Values

variable (s : State) (x y : Reg) (nn : Byte)

theorem exec_ldVxNn : exec (.ldVxNn x nn) s = .next (setReg s x nn) := rfl

theorem exec_addVxNn : exec (.addVxNn x nn) s = .next (setReg s x (reg s x + nn)) := rfl

theorem exec_ldVxVy : exec (.ldVxVy x y) s = .next (setReg s x (reg s y)) := rfl

theorem exec_orVxVy : exec (.orVxVy x y) s = .next (setReg s x (reg s x ||| reg s y)) := rfl

theorem exec_andVxVy : exec (.andVxVy x y) s = .next (setReg s x (reg s x &&& reg s y)) := rfl

theorem exec_xorVxVy : exec (.xorVxVy x y) s = .next (setReg s x (reg s x ^^^ reg s y)) := rfl

theorem exec_rndVxNn : exec (.rndVxNn x nn) s = .next (setReg s x (s.rnd &&& nn)) := rfl

end Values

/-- An instruction that completes with one register write changes that register and nothing else. -/
theorem exists_writesReg_of_exec {i : Instr} {s : State} {x : Reg} {v : Byte} (h : exec i s = .next (setReg s x v)) :
    ∃ t, exec i s = .next t ∧ WritesReg x v s t :=
  ⟨_, h, writesReg_setReg s x v⟩

/-- Settles O28: both loads are one register write. -/
theorem loadsCopyValues : Obligations.LoadsCopyValues := by
  intro s x y nn
  refine ⟨?immediate, ?register⟩
  case immediate => exact exists_writesReg_of_exec (exec_ldVxNn s x nn)
  case register => exact exists_writesReg_of_exec (exec_ldVxVy s x y)

/-- Settles O29: one register write, and the sum of two bytes wraps at 256. -/
theorem addImmediateWraps : Obligations.AddImmediateWraps := by
  intro s x nn
  obtain ⟨t, hexec, hsum, hregs, hrest⟩ := exists_writesReg_of_exec (exec_addVxNn s x nn)
  have hwrap : (reg t x).toNat = ((reg s x).toNat + nn.toNat) % 256 := by
    rw [hsum, BitVec.toNat_add]
  exact ⟨t, hexec, hwrap, hregs, hrest⟩

/-- Settles O30: each operation is one register write of its result. -/
theorem bitwiseOperations : Obligations.BitwiseOperations := by
  intro s x y
  refine ⟨?or, ?and, ?xor⟩
  case or => exact exists_writesReg_of_exec (exec_orVxVy s x y)
  case and => exact exists_writesReg_of_exec (exec_andVxVy s x y)
  case xor => exact exists_writesReg_of_exec (exec_xorVxVy s x y)

/-- Settles O34: the drawn byte is the random source's input line (10_state.md R34), whatever it holds. -/
theorem randomByteIsMasked : Obligations.RandomByteIsMasked := by
  intro s x nn drawn
  exact exists_writesReg_of_exec (exec_rndVxNn { s with rnd := drawn } x nn)

end Sys2Proof.Machine
end

section
/-! The load of the address register (42_address_memory.md R130): one write of `I`, with the 12-bit address
zero-extended. -/

namespace Sys2Proof.Machine

/-- LD I,NNN writes `zext_16(nnn)` to `I` and has no fatal outcome (42_address_memory.md R130). -/
theorem exec_ldINnn (s : State) (nnn : BitVec 12) : exec (.ldINnn nnn) s = .next (setIndex s (addr16 nnn)) := rfl

/-- Settles O35: the one write is of `I`, and zero-extension keeps the number `nnn` is. -/
theorem loadAddressSetsIndex : Obligations.LoadAddressSetsIndex := by
  intro s nnn
  have hvalue : (setIndex s (addr16 nnn)).i.toNat = nnn.toNat := by
    rw [setIndex_i, addr16_toNat]
  exact ⟨_, exec_ldINnn s nnn, hvalue, keepsAllBut_setIndex s (addr16 nnn)⟩

end Sys2Proof.Machine
end

section
/-! Clearing the display (43_display.md R140): CLS is one write of the display, with every pixel off. -/

namespace Sys2Proof.Machine

/-- CLS writes the blank display, whatever the state and the display mode, and has no fatal outcome
(43_display.md R140). -/
theorem exec_cls (s : State) : exec .cls s = .next (setDisplay s blank) := rfl

/-- Settles O42: the one write is of the display, and `pixel_blank` reads what it wrote. -/
theorem clearScreenTurnsEveryPixelOff : Obligations.ClearScreenTurnsEveryPixelOff := by
  intro s
  have hoff (r : Fin 32) (c : Fin 64) : pixel (setDisplay s blank).fb r c = false := by
    rw [setDisplay_fb, pixel_blank]
  exact ⟨_, exec_cls s, hoff, keepsAllBut_setDisplay s blank⟩

end Sys2Proof.Machine
end

section
/-! The timer transfers (44_input_timers.md R154 to R156): one register write of the delay timer, and one write of
either timer from a register. -/

namespace Sys2Proof.Machine

/-- LD Vx,DT writes the delay timer to Vx and has no fatal outcome (44_input_timers.md R154). -/
theorem exec_ldVxDt (s : State) (x : Reg) : exec (.ldVxDt x) s = .next (setReg s x s.dt) := rfl

/-- LD DT,Vx writes Vx to the delay timer and has no fatal outcome (44_input_timers.md R155). -/
theorem exec_ldDtVx (s : State) (x : Reg) : exec (.ldDtVx x) s = .next (setDt s (reg s x)) := rfl

/-- LD ST,Vx writes Vx to the sound timer and has no fatal outcome (44_input_timers.md R156). -/
theorem exec_ldStVx (s : State) (x : Reg) : exec (.ldStVx x) s = .next (setSt s (reg s x)) := rfl

/-- Settles O49: each transfer is one write; the frame of a timer's write keeps the tick reference, which is why the
first decrement after it comes at the next tick. -/
theorem timerTransfers : Obligations.TimerTransfers := by
  intro s x
  refine ⟨?readDelay, ⟨_, exec_ldDtVx s x, ?delay, ?delayFrame⟩, ⟨_, exec_ldStVx s x, ?sound, ?soundFrame⟩⟩
  case readDelay => exact exists_writesReg_of_exec (exec_ldVxDt s x)
  case delay => exact setDt_dt s (reg s x)
  case delayFrame => exact keepsAllBut_setDt s (reg s x)
  case sound => exact setSt_st s (reg s x)
  case soundFrame => exact keepsAllBut_setSt s (reg s x)

end Sys2Proof.Machine
end

section
/-! The timer gate (60_exceptions.md R170): what counting down does to a timer's number, what the tick writes when the
period has elapsed and when it has not, and what it keeps in either case. -/

namespace Sys2Proof.Machine

open Sys2Proof.Safety

/-- Truncated subtraction is the timer's: 0 stays 0, and any other value does not wrap. -/
@[simp] theorem countDown_toNat (v : Byte) : (countDown v).toNat = v.toNat - 1 := by
  unfold countDown
  split
  case isTrue hzero => rw [hzero]; rfl
  case isFalse hnonzero =>
    have hone : 1#8 ≤ v := by bv_omega
    exact BitVec.toNat_sub_of_le hone

theorem tickDue_of_le {s : State} (h : s.tickRef + s.tickPeriod ≤ s.now) : tickDue s = true :=
  decide_eq_true h

theorem tickDue_of_lt {s : State} (h : s.now < s.tickRef + s.tickPeriod) : tickDue s = false :=
  decide_eq_false (Nat.not_le.mpr h)

theorem keepsAllBut_tick (s : State) : KeepsAllBut [.dt, .st, .beep, .tickRef] s (tick s) := by
  intro p hp; cases p <;> simp_all [Keeps]

/-- Settles O11: `tickDue` decides which of the two cases it is, and `countDown_toNat` says what a due tick does to
either timer. -/
theorem tickDecrementsEachTimerOnce : Obligations.TickDecrementsEachTimerOnce := by
  intro s
  refine ⟨fun helapsed => ?due, fun hearly => ?notDue, keepsAllBut_tick s⟩
  case due => simp [tickDue_of_le helapsed]
  case notDue => simp [tickDue_of_lt hearly]

end Sys2Proof.Machine
end

section
/-! The decoder and the encoder (30_encoding.md R61 to R67): the fields of a word and the word of its fields, the round
trip in both directions, the opcode map, and the words that are no instruction. -/

namespace Sys2Proof

/-! The fields as numbers (R62). -/

theorem family_toNat (op : Word) : (family op).toNat = op.toNat / 4096 := by
  have := op.isLt
  simp [family, Nat.shiftRight_eq_div_pow]; omega

theorem fieldN_toNat (op : Word) : (fieldN op).toNat = op.toNat % 16 := by simp [fieldN]

theorem fieldNn_toNat (op : Word) : (fieldNn op).toNat = op.toNat % 256 := by simp [fieldNn]

/-! A word is the word of its fields, in each format (R61, R62). -/

theorem wordNnn_fields (op : Word) : wordNnn (family op) (fieldNnn op) = op := by
  apply BitVec.eq_of_getLsbD_eq; intro k hk; simp [family, fieldNnn, wordNnn]; grind

theorem wordXnn_fields (op : Word) : wordXnn (family op) (fieldX op) (fieldNn op) = op := by
  apply BitVec.eq_of_getLsbD_eq; intro k hk; simp [family, fieldX, fieldNn, wordXnn]; grind

theorem wordXyn_fields (op : Word) : wordXyn (family op) (fieldX op) (fieldY op) (fieldN op) = op := by
  apply BitVec.eq_of_getLsbD_eq; intro k hk; simp [family, fieldX, fieldY, fieldN, wordXyn]; grind

/-! From an instruction to its word and back. -/

/-- Decoding the word the encoder writes gives the instruction back: the family the encoder writes selects the arm, in
families 8, E and F the function code the second arm, and the fields are those written. -/
theorem decodeWord_encodeWord (i : Instr) : decodeWord (encodeWord i) = .ok i := by
  cases i
  case cls | ret => rfl
  case ldVxVy | orVxVy | andVxVy | xorVxVy | addVxVy | subVxVy | shrVx | subnVxVy | shlVx =>
    simp [encodeWord, decodeWord, decodeFamily8]
  case skpVx | sknpVx => simp [encodeWord, decodeWord, decodeFamilyE]
  case ldVxDt | ldVxK | ldDtVx | ldStVx | addIVx | ldFVx | ldBVx | ldMemVx | ldVxMem =>
    simp [encodeWord, decodeWord, decodeFamilyF]
  all_goals simp [encodeWord, decodeWord]

/-- Settles O1: the word's two bytes are the word again, so the statement on bytes is the one on words. -/
theorem decodeOfEncodeIsTheInstruction : Obligations.DecodeOfEncodeIsTheInstruction := by
  intro i rest
  have hword := decodeWord_encodeWord i
  refine ⟨hword, ?_⟩
  simp [encode, bytesOfWord, decode, hword]

/-! From a word to its instruction and back, one lemma per family with a second level. -/

section Inversion

variable {op : Word} {i : Instr}

/-- A four-bit field is the numeral its number is matched with. -/
theorem eq_ofNat_of_toNat_eq {v : BitVec 4} {k : Nat} (h : v.toNat = k) : v = BitVec.ofNat 4 k := by simp [← h]

/-- The last arm of the first level is family F. -/
theorem family_eq_F_of_le (h : 15 ≤ (family op).toNat) : family op = 0xF := by
  have := (family op).isLt
  apply BitVec.eq_of_toNat_eq
  change _ = 15
  omega

theorem encodeWord_of_decodeFamily0 (h : decodeFamily0 op = .ok i) : encodeWord i = op := by
  unfold decodeFamily0 at h
  split_ifs at h with hcls hret <;> cases h
  · exact hcls.symm
  · exact hret.symm

theorem encodeWord_of_decodeFamily8 (hf : family op = 8) (h : decodeFamily8 op = .ok i) : encodeWord i = op := by
  have hword := wordXyn_fields op
  unfold decodeFamily8 at h
  split at h <;> cases h
  all_goals
    rename_i hn
    rwa [hf, eq_ofNat_of_toNat_eq hn] at hword

theorem encodeWord_of_decodeFamilyE (hf : family op = 0xE) (h : decodeFamilyE op = .ok i) : encodeWord i = op := by
  have hword := wordXnn_fields op
  unfold decodeFamilyE at h
  split_ifs at h with hskp hsknp <;> cases h
  · rwa [hf, hskp] at hword
  · rwa [hf, hsknp] at hword

theorem encodeWord_of_decodeFamilyF (hf : family op = 0xF) (h : decodeFamilyF op = .ok i) : encodeWord i = op := by
  have hword := wordXnn_fields op
  unfold decodeFamilyF at h
  split_ifs at h <;> cases h
  all_goals
    rename_i hnn
    rwa [hf, hnn] at hword

/-- The first level: each of its arms names the family, and a word is the word of its family and its other fields. -/
theorem encodeWord_of_decodeWord (h : decodeWord op = .ok i) : encodeWord i = op := by
  unfold decodeWord at h
  split at h
  case h_1 hf => exact encodeWord_of_decodeFamily0 h
  case h_9 hf => exact encodeWord_of_decodeFamily8 (eq_ofNat_of_toNat_eq hf) h
  case h_15 hf => exact encodeWord_of_decodeFamilyE (eq_ofNat_of_toNat_eq hf) h
  case h_16 =>
    exact encodeWord_of_decodeFamilyF (family_eq_F_of_le (by grind)) h
  case h_2 hf | h_3 hf | h_11 hf | h_12 hf =>
    cases h
    have hword := wordNnn_fields op
    rwa [eq_ofNat_of_toNat_eq hf] at hword
  case h_4 hf | h_5 hf | h_7 hf | h_8 hf | h_13 hf =>
    cases h
    have hword := wordXnn_fields op
    rwa [eq_ofNat_of_toNat_eq hf] at hword
  case h_6 hf | h_10 hf | h_14 hf =>
    cases h
    have hword := wordXyn_fields op
    rwa [eq_ofNat_of_toNat_eq hf] at hword

end Inversion

/-- Settles O2, by the inversion of the decoder's two levels: a word that decodes is made of its fields. -/
theorem encodeOfDecodeIsTheWord : Obligations.EncodeOfDecodeIsTheWord :=
  fun _ _ h => encodeWord_of_decodeWord h

/-! The opcode map (R65): two words that agree under a row's mask agree in the fields the decoder looks at. -/

section Masks

variable {op q : Word}

theorem family_eq_of_and_F000 (h : op &&& 0xF000 = q &&& 0xF000) : family op = family q := by
  rw [← wordNnn_fields op, ← wordNnn_fields q, wordNnn_and_F000, wordNnn_and_F000] at h
  simpa using congrArg family h

theorem family_fieldN_eq_of_and_F00F (h : op &&& 0xF00F = q &&& 0xF00F) :
    family op = family q ∧ fieldN op = fieldN q := by
  rw [← wordXyn_fields op, ← wordXyn_fields q, wordXyn_and_F00F, wordXyn_and_F00F] at h
  exact ⟨by simpa using congrArg family h, by simpa using congrArg fieldN h⟩

theorem family_fieldNn_eq_of_and_F0FF (h : op &&& 0xF0FF = q &&& 0xF0FF) :
    family op = family q ∧ fieldNn op = fieldNn q := by
  rw [← wordXnn_fields op, ← wordXnn_fields q, wordXnn_and_F0FF, wordXnn_and_F0FF] at h
  exact ⟨by simpa using congrArg family h, by simpa using congrArg fieldNn h⟩

end Masks

/-- `OpcodeMatch` collected: the word of an instruction has, under the mask of its row, the row's match. -/
theorem encodeWord_and_mask (i : Instr) : encodeWord i &&& (opcodeRow i).mask = (opcodeRow i).pattern := by
  open Laws.OpcodeMatch in
  cases i with
  | cls => exact cls
  | ret => exact ret
  | jp nnn => exact jp nnn
  | call nnn => exact call nnn
  | seVxNn x nn => exact seVxNn x nn
  | sneVxNn x nn => exact sneVxNn x nn
  | seVxVy x y n => exact seVxVy x y n
  | ldVxNn x nn => exact ldVxNn x nn
  | addVxNn x nn => exact addVxNn x nn
  | ldVxVy x y => exact ldVxVy x y
  | orVxVy x y => exact orVxVy x y
  | andVxVy x y => exact andVxVy x y
  | xorVxVy x y => exact xorVxVy x y
  | addVxVy x y => exact addVxVy x y
  | subVxVy x y => exact subVxVy x y
  | shrVx x y => exact shrVx x y
  | subnVxVy x y => exact subnVxVy x y
  | shlVx x y => exact shlVx x y
  | sneVxVy x y n => exact sneVxVy x y n
  | ldINnn nnn => exact ldINnn nnn
  | jpV0Nnn nnn => exact jpV0Nnn nnn
  | rndVxNn x nn => exact rndVxNn x nn
  | drw x y n => exact drw x y n
  | skpVx x => exact skpVx x
  | sknpVx x => exact sknpVx x
  | ldVxDt x => exact ldVxDt x
  | ldVxK x => exact ldVxK x
  | ldDtVx x => exact ldDtVx x
  | ldStVx x => exact ldStVx x
  | addIVx x => exact addIVx x
  | ldFVx x => exact ldFVx x
  | ldBVx x => exact ldBVx x
  | ldMemVx x => exact ldMemVx x
  | ldVxMem x => exact ldVxMem x

theorem covers_iff (op : Word) (j : Instr) :
    (opcodeRow j).covers op = true ↔ op &&& (opcodeRow j).mask = encodeWord j &&& (opcodeRow j).mask := by
  rw [encodeWord_and_mask, OpcodeRow.covers, beq_iff_eq]

/-- A word covered by a row of the map decodes to an instruction of that row: under the row's mask it is the word of any
instruction of the row, so the fields that select the decoder's arm are that word's. -/
theorem decodeWord_of_covers {op : Word} {j : Instr} (h : (opcodeRow j).covers op = true) :
    ∃ i, decodeWord op = .ok i ∧ opcodeRow i = opcodeRow j := by
  rw [covers_iff] at h
  cases j
  case cls | ret =>
    have hop := BitVec.and_allOnes.symm.trans (h.trans BitVec.and_allOnes)
    exact ⟨_, hop ▸ decodeWord_encodeWord _, rfl⟩
  case ldVxVy | orVxVy | andVxVy | xorVxVy | addVxVy | subVxVy | shrVx | subnVxVy | shlVx =>
    obtain ⟨hf, hn⟩ := family_fieldN_eq_of_and_F00F h
    simp [decodeWord, decodeFamily8, hf, hn, encodeWord, opcodeRow]
  case skpVx | sknpVx =>
    obtain ⟨hf, hn⟩ := family_fieldNn_eq_of_and_F0FF h
    simp [decodeWord, decodeFamilyE, hf, hn, encodeWord, opcodeRow]
  case ldVxDt | ldVxK | ldDtVx | ldStVx | addIVx | ldFVx | ldBVx | ldMemVx | ldVxMem =>
    obtain ⟨hf, hn⟩ := family_fieldNn_eq_of_and_F0FF h
    simp [decodeWord, decodeFamilyF, hf, hn, encodeWord, opcodeRow]
  all_goals
    have hf := family_eq_of_and_F000 h
    simp [decodeWord, hf, encodeWord, opcodeRow]

/-- Settles O3: forwards a word that decodes is its instruction's encoding, backwards the row fixes every field the
decoder looks at. -/
theorem decoderFollowsOpcodeMap : Obligations.DecoderFollowsOpcodeMap := by
  intro op
  refine ⟨fun i hi => ?_, fun j => decodeWord_of_covers⟩
  rw [covers_iff, encodeWord_of_decodeWord hi]

/-! The unknown words (R66), group by group. -/

section Unknown

variable {op : Word}

theorem decodeFamily0_error_iff :
    (∃ e, decodeFamily0 op = .error e) ↔ op.toNat ≠ 0x00E0 ∧ op.toNat ≠ 0x00EE := by
  unfold decodeFamily0
  split_ifs <;> simp_all [BitVec.toNat_eq]

theorem decodeFamily8_error_iff :
    (∃ e, decodeFamily8 op = .error e) ↔ op.toNat % 16 ∈ [0x8, 0x9, 0xA, 0xB, 0xC, 0xD, 0xF] := by
  have := Nat.mod_lt op.toNat (show 16 > 0 by decide)
  unfold decodeFamily8
  rw [fieldN_toNat]
  split
  case h_10 => simp; grind
  all_goals simp [*]

theorem decodeFamilyE_error_iff :
    (∃ e, decodeFamilyE op = .error e) ↔ op.toNat % 256 ∉ [0x9E, 0xA1] := by
  unfold decodeFamilyE
  split_ifs <;> simp_all [BitVec.toNat_eq, fieldNn_toNat]

theorem decodeFamilyF_error_iff :
    (∃ e, decodeFamilyF op = .error e) ↔
      op.toNat % 256 ∉ [0x07, 0x0A, 0x15, 0x18, 0x1E, 0x29, 0x33, 0x55, 0x65] := by
  unfold decodeFamilyF
  split_ifs <;> simp_all [BitVec.toNat_eq, fieldNn_toNat]

end Unknown

/-- Settles O4: by the word's family; only families 0, 8, E and F hold unknown words, those of their second level. -/
theorem unknownWordsAreTheFourGroups : Obligations.UnknownWordsAreTheFourGroups := by
  intro op
  unfold decodeWord
  rw [family_toNat]
  split
  case h_1 hf => simp [hf, decodeFamily0_error_iff]
  case h_9 hf => simp [hf, decodeFamily8_error_iff]
  case h_15 hf => simp [hf, decodeFamilyE_error_iff]
  case h_16 =>
    have hf : op.toNat / 4096 = 15 := by have := op.isLt; grind
    simp [hf, decodeFamilyF_error_iff]
  all_goals
    rename_i hf
    simp [hf]

/-- Settles O5, a fact about fifteen fixed words. -/
theorem sampleWordsDecode : Obligations.SampleWordsDecode := by
  unfold Obligations.SampleWordsDecode
  decide

end Sys2Proof
end

section
/-! The cycle (30_encoding.md R72): what `step` is, one rule per way a cycle can go, and what follows from the rules
alone. `step_cases` is the same list read from the result. -/

namespace Sys2Proof.Machine

open Sys2Proof.Safety

/-! One rule per way a cycle can go. -/

section Rules

variable {s t : State} {op : Word}

theorem step_of_halted (h : s.halted = true) : step s = .next (sampleInputs (idle s)) := by
  simp [step, cycleThenInputs, cycle, h]

theorem step_of_pc_gt (h : s.halted = false) (hpc : 4094 < s.pc.toNat) :
    step s = .next (sampleInputs (raise s.pc (rangeTrap .memRangeFetch s.pc.toNat) (tick s))) := by
  have hfetch : fetch s.font s.mem s.pc = .error (rangeTrap .memRangeFetch s.pc.toNat) :=
    fetch_of_gt (by omega)
  simp [step, cycleThenInputs, cycle, h, hfetch]

theorem halted_of_fetches (h : Fetches s op) : s.halted = false := by
  obtain ⟨hrun, -, -⟩ := h
  exact hrun

theorem fetch_of_fetches (h : Fetches s op) : fetch s.font s.mem s.pc = .ok op := by
  obtain ⟨-, hpc, hop⟩ := h
  rw [fetch_eq, if_pos hpc, hop]

theorem step_of_decodeWord_error {e : Reject} (h : Fetches s op) (hd : decodeWord op = .error e) :
    step s = .next (sampleInputs (raise s.pc ⟨.unknownOpcode, op.setWidth 17⟩ (advance (tick s)))) := by
  simp [step, cycleThenInputs, cycle, halted_of_fetches h, fetch_of_fetches h, hd]

theorem step_of_decodeWord_ok {i : Instr} (h : Fetches s op) (hd : decodeWord op = .ok i)
    (ht : exec i (advance (tick s)) = .next t) : step s = .next (sampleInputs t) := by
  simp [step, cycleThenInputs, cycle, halted_of_fetches h, fetch_of_fetches h, hd, ht]

/-- A running state whose pc the fetch admits fetches one word. -/
theorem exists_fetches (h : s.halted = false) (hpc : s.pc.toNat ≤ 4094) : ∃ op, Fetches s op :=
  ⟨_, h, hpc, rfl⟩

theorem fetches_unique {op' : Word} (h : Fetches s op) (h' : Fetches s op') : op = op' := by
  obtain ⟨-, -, hop⟩ := h
  obtain ⟨-, -, hop'⟩ := h'
  rw [hop, hop']

end Rules

/-- Settles O6: the rule of a decodable word; the advance writes pc alone. -/
theorem stepRunsTheDecodedInstruction : Obligations.StepRunsTheDecodedInstruction := by
  intro s op i hfetch hdecode
  exact ⟨fun t => step_of_decodeWord_ok hfetch hdecode, rfl, keepsAllBut_setPc (tick s) _⟩

/-- Settles O7: the word is recorded whole, since the information word is wider. -/
theorem unknownWordIsFatal : Obligations.UnknownWordIsFatal := by
  intro s op hfetch ⟨e, hdecode⟩
  refine ⟨_, step_of_decodeWord_error hfetch hdecode, rfl, rfl, rfl, ?_⟩
  exact BitVec.toNat_setWidth_of_le (by decide)

/-- Settles O8: the address is recorded whole, since the information word is wider. -/
theorem fetchBeyondMemoryIsFatal : Obligations.FetchBeyondMemoryIsFatal := by
  intro s hrun hpc
  refine ⟨_, step_of_pc_gt hrun hpc, rfl, rfl, rfl, ?_⟩
  have := s.pc.isLt
  exact Nat.mod_eq_of_lt (by omega)

/-! Frames compose. -/

theorem keeps_trans {p : Part} {s t u : State} (h : Keeps p s t) (h' : Keeps p t u) : Keeps p s u := by
  cases p <;> simp_all [Keeps]

theorem keepsAllBut_trans {ps : List Part} {s t u : State} (h : KeepsAllBut ps s t) (h' : KeepsAllBut ps t u) :
    KeepsAllBut ps s u :=
  fun p hp => keeps_trans (h p hp) (h' p hp)

theorem keepsAllBut_mono {ps qs : List Part} {s t : State} (hsub : ps ⊆ qs) (h : KeepsAllBut ps s t) :
    KeepsAllBut qs s t :=
  fun p hp => h p fun hmem => hp (hsub hmem)

theorem keepsAllBut_refl (ps : List Part) (s : State) : KeepsAllBut ps s s := by
  intro p hp; cases p <;> simp [Keeps]

theorem keepsAllBut_sampleInputs (s : State) : KeepsAllBut [.inputs] s (sampleInputs s) := by
  intro p hp; cases p <;> simp_all [Keeps]

theorem keepsAllBut_idle (s : State) : KeepsAllBut [.beep] s (idle s) := by
  intro p hp; cases p <;> simp_all [Keeps]

/-! The fatal state (60_exceptions.md R161). -/

/-- The empty cycle changes the beep, which it drops, and the input lines. -/
theorem keepsAllBut_emptyCycle (s : State) : KeepsAllBut [.beep, .inputs] s (sampleInputs (idle s)) :=
  keepsAllBut_trans (keepsAllBut_mono (by simp) (keepsAllBut_idle s))
    (keepsAllBut_mono (by simp) (keepsAllBut_sampleInputs (idle s)))

/-- A step that answers a next state, for a run of one cycle more; of every machine behind the host's interface. -/
theorem run_succ_of_step {M : Host.Core} {s t : M.State} (h : M.step s = .next t) (n : Nat) :
    M.run (n + 1) s = M.run n t := by
  simp only [Host.Core.run, h]

/-- Any number of cycles of the fatal state; a beep that is dropped stays dropped. -/
theorem run_of_halted (n : Nat) (s : State) (h : s.halted = true) :
    ∃ t, Host.Core.run core n s = .next t ∧ KeepsAllBut [.beep, .inputs] s t ∧
      (0 < n ∨ s.beep = false → t.beep = false) := by
  induction n generalizing s with
  | zero => exact ⟨s, rfl, keepsAllBut_refl _ s, by simp⟩
  | succ n ih =>
    obtain ⟨t, hrun, hkeep, hbeep⟩ := ih (sampleInputs (idle s)) h
    refine ⟨t, ?_, keepsAllBut_trans (keepsAllBut_emptyCycle s) hkeep, fun _ => hbeep (.inr rfl)⟩
    exact (run_succ_of_step (M := core) (step_of_halted h) n).trans hrun

/-- Settles O9, by induction on the number of cycles. -/
theorem fatalStateIsForever : Obligations.FatalStateIsForever := by
  intro n s h
  obtain ⟨t, hrun, hkeep, hbeep⟩ := run_of_halted n s h
  exact ⟨t, hrun, hkeep, fun hn => hbeep (.inl hn)⟩

end Sys2Proof.Machine
end

section
/-! How an instruction ends. Every arm of `exec` is `complete` of a state or of a trap; `ending` names that result, and
the rules of the machine as a whole are read from it: what an instruction that completes can have updated, when an
instruction raises a fatal condition, and that none stops the model. -/

namespace Sys2Proof.Machine

open Sys2Proof.Safety

/-- The state `i` leaves, or the fatal condition it raises (30_encoding.md R72; 60_exceptions.md R161). -/
def ending (i : Instr) (s : State) : Except Trap State :=
  match i with
  | .cls => .ok (setDisplay s blank)
  | .ret =>
    match pop s with
    | none => .error ⟨.stackUnderflow, 0⟩
    | some (v, t) => .ok (setPc t v)
  | .jp nnn =>
    if addr16 nnn = pc0 s then .error ⟨.jumpToSelf, nnn.setWidth 17⟩ else .ok (setPc s (addr16 nnn))
  | .call nnn =>
    match push s s.pc with
    | none => .error ⟨.stackOverflow, nnn.setWidth 17⟩
    | some t => .ok (setPc t (addr16 nnn))
  | .seVxNn x nn => .ok (skipIf (reg s x == nn) s)
  | .sneVxNn x nn => .ok (skipIf (reg s x != nn) s)
  | .seVxVy x y _ => .ok (skipIf (reg s x == reg s y) s)
  | .ldVxNn x nn => .ok (setReg s x nn)
  | .addVxNn x nn => .ok (setReg s x (reg s x + nn))
  | .ldVxVy x y => .ok (setReg s x (reg s y))
  | .orVxVy x y => .ok (setReg s x (reg s x ||| reg s y))
  | .andVxVy x y => .ok (setReg s x (reg s x &&& reg s y))
  | .xorVxVy x y => .ok (setReg s x (reg s x ^^^ reg s y))
  | .addVxVy x y => .ok (setRegFlag s x (reg s x + reg s y) (carryFlag (reg s x) (reg s y)))
  | .subVxVy x y => .ok (setRegFlag s x (reg s x - reg s y) (greaterFlag (reg s x) (reg s y)))
  | .shrVx x _ => .ok (setRegFlag s x (reg s x >>> 1) (lowBitFlag (reg s x)))
  | .subnVxVy x y => .ok (setRegFlag s x (reg s y - reg s x) (greaterFlag (reg s y) (reg s x)))
  | .shlVx x _ => .ok (setRegFlag s x (reg s x <<< 1) (highBitFlag (reg s x)))
  | .sneVxVy x y _ => .ok (skipIf (reg s x != reg s y) s)
  | .ldINnn nnn => .ok (setIndex s (addr16 nnn))
  | .jpV0Nnn nnn => .ok (setPc s (reg16 s 0 + addr16 nnn))
  | .rndVxNn x nn => .ok (setReg s x (s.rnd &&& nn))
  | .drw x y n => (loadBytes s.font s.mem (base s) n.toNat).map (blit s (reg s x) (reg s y))
  | .skpVx x =>
    if (reg s x).toNat > 15 then .error ⟨.keyIndexRange, (reg s x).setWidth 17⟩
    else .ok (skipIf (keyIsDown s (reg s x).toNat == true) s)
  | .sknpVx x =>
    if (reg s x).toNat > 15 then .error ⟨.keyIndexRange, (reg s x).setWidth 17⟩
    else .ok (skipIf (keyIsDown s (reg s x).toNat == false) s)
  | .ldVxDt x => .ok (setReg s x s.dt)
  | .ldVxK x =>
    .ok <| match lowestKey s with
      | none => setPc s (pc0 s)
      | some k => setReg s x (BitVec.ofNat 8 k)
  | .ldDtVx x => .ok (setDt s (reg s x))
  | .ldStVx x => .ok (setSt s (reg s x))
  | .addIVx x => .ok (setReg (setIndex s (s.i + reg16 s x)) vf (addressFlag (s.i + reg16 s x)))
  | .ldFVx x =>
    if (reg s x).toNat > 15 then .error ⟨.fontIndexRange, (reg s x).setWidth 17⟩
    else .ok (setIndex s (glyphAddr (reg s x)))
  | .ldBVx x => (storeBytes s.font s.mem (base s) (decimalDigits (reg s x))).map (setMem s)
  | .ldMemVx x => (storeBytes s.font s.mem (base s) (regsUpTo s x)).map (setMem s)
  | .ldVxMem x => (loadBytes s.font s.mem (base s) (x.toNat + 1)).map (setRegs s)

/-- `ending` is what `exec` completes with. -/
theorem exec_eq_complete (i : Instr) (s : State) : exec i s = complete s (ending i s) := by
  cases i <;> rfl

section Outcome

variable {i : Instr} {s t : State}

theorem exec_of_ending_ok (h : ending i s = .ok t) : exec i s = .next t := by
  rw [exec_eq_complete, h, complete_ok]

theorem exec_of_ending_error {e : Trap} (h : ending i s = .error e) : exec i s = .next (raise (pc0 s) e s) := by
  rw [exec_eq_complete, h, complete_error]

/-- Everything an instruction that answers a next state can have done. -/
theorem exec_cases (h : exec i s = .next t) :
    ending i s = .ok t ∨ ∃ e, ending i s = .error e ∧ t = raise (pc0 s) e s :=
  complete_cases ((exec_eq_complete i s).symm.trans h)

/-- An instruction that does not leave the fatal state completed. -/
theorem ending_of_exec (h : exec i s = .next t) (hrun : t.halted = false) : ending i s = .ok t := by
  rcases exec_cases h with hok | ⟨e, -, rfl⟩
  · exact hok
  · cases hrun

theorem exists_exec_next (i : Instr) (s : State) : ∃ t, exec i s = .next t := by
  cases h : ending i s with
  | ok t => exact ⟨t, exec_of_ending_ok h⟩
  | error e => exact ⟨_, exec_of_ending_error h⟩

end Outcome

/-- Settles O10: each way a cycle can go answers a next state. -/
theorem everyStepAnswersANextState : Obligations.EveryStepAnswersANextState := by
  intro s
  by_cases hrun : s.halted = false
  case neg => exact ⟨_, step_of_halted (by simpa using hrun)⟩
  by_cases hpc : s.pc.toNat ≤ 4094
  case neg => exact ⟨_, step_of_pc_gt hrun (by omega)⟩
  obtain ⟨op, hfetch⟩ := exists_fetches hrun hpc
  cases hdecode : decodeWord op with
  | error e => exact ⟨_, step_of_decodeWord_error hfetch hdecode⟩
  | ok i =>
    obtain ⟨t, hexec⟩ := exists_exec_next i (advance (tick s))
    exact ⟨_, step_of_decodeWord_ok hfetch hdecode hexec⟩

/-! Reading and writing several bytes, with the state around them. -/

/-- Bytes stored from `I` on, the first address out of range raised (20_memory.md R45). -/
theorem storeBytes_map_setMem (s : State) (bs : List Byte) (h : bs ≠ []) :
    (storeBytes s.font s.mem (base s) bs).map (setMem s) =
      if 4095 < s.i.toNat + (bs.length - 1) then .error (rangeTrap .memRangeWrite (max s.i.toNat 4096))
      else .ok (setMem s (Memory.pokes s.font s.mem s.i.toNat bs)) := by
  have hlen := List.length_pos_iff.mpr h
  rw [storeBytes_eq, base]
  by_cases hr : 4095 < s.i.toNat + (bs.length - 1)
  · rw [if_pos hr, if_neg (by simp only [h, false_or]; omega)]; rfl
  · rw [if_neg hr, if_pos (by omega)]; rfl

/-- The `n` bytes from `I` on. -/
def bytesFrom (s : State) (n : Nat) : List Byte := (List.range n).map fun k => byteAt s (s.i.toNat + k)

@[simp] theorem bytesFrom_length (s : State) (n : Nat) : (bytesFrom s n).length = n := by simp [bytesFrom]

theorem bytesFrom_getElem? (s : State) {n k : Nat} (h : k < n) :
    (bytesFrom s n)[k]? = some (byteAt s (s.i.toNat + k)) := by
  simp [bytesFrom, h]

theorem bytesFrom_getElem (s : State) {n k : Nat} (h : k < (bytesFrom s n).length) :
    (bytesFrom s n)[k] = byteAt s (s.i.toNat + k) := by
  simp [bytesFrom]

/-- Bytes loaded from `I` on, the first address out of range raised (20_memory.md R45). -/
theorem loadBytes_map (s : State) (n : Nat) (g : List Byte → State) :
    (loadBytes s.font s.mem (base s) n).map g =
      if n ≠ 0 ∧ 4095 < s.i.toNat + (n - 1) then .error (rangeTrap .memRangeRead (max s.i.toNat 4096))
      else .ok (g (bytesFrom s n)) := by
  rw [loadBytes_eq, base]
  by_cases hr : n ≠ 0 ∧ 4095 < s.i.toNat + (n - 1)
  · rw [if_pos hr, if_neg (by omega)]; rfl
  · rw [if_neg hr, if_pos (by omega)]; rfl

/-! The instructions that can raise a fatal condition, each split on the condition of 60_exceptions.md R162. -/

section Endings

variable (s : State) (x y : Reg)

theorem ending_jp (nnn : BitVec 12) :
    ending (.jp nnn) s =
      if nnn.toNat = (s.pc - 2).toNat then .error ⟨.jumpToSelf, nnn.setWidth 17⟩
      else .ok (setPc s (addr16 nnn)) := by
  have hself : addr16 nnn = pc0 s ↔ nnn.toNat = (s.pc - 2).toNat := by
    rw [BitVec.toNat_eq, addr16_toNat, pc0]
  simp only [ending, hself]

theorem ending_ret_of_zero (h : s.sp.val = 0) : ending .ret s = .error ⟨.stackUnderflow, 0⟩ := by
  obtain ⟨hpos, -⟩ | ⟨-, hpop⟩ := pop_eq s
  · omega
  · simp only [ending, hpop]

theorem ending_call_of_full (nnn : BitVec 12) (h : s.sp.val = 24) :
    ending (.call nnn) s = .error ⟨.stackOverflow, nnn.setWidth 17⟩ := by
  obtain ⟨hlt, -⟩ | ⟨-, hpush⟩ := push_eq s s.pc
  · omega
  · simp only [ending, hpush]

theorem ending_drw (n : BitVec 4) :
    ending (.drw x y n) s =
      if n.toNat ≠ 0 ∧ 4095 < s.i.toNat + (n.toNat - 1) then .error (rangeTrap .memRangeRead (max s.i.toNat 4096))
      else .ok (blit s (reg s x) (reg s y) (bytesFrom s n.toNat)) :=
  loadBytes_map s n.toNat _

theorem ending_ldVxMem :
    ending (.ldVxMem x) s =
      if 4095 < s.i.toNat + x.toNat then .error (rangeTrap .memRangeRead (max s.i.toNat 4096))
      else .ok (setRegs s (bytesFrom s (x.toNat + 1))) := by
  simpa [ending] using loadBytes_map s (x.toNat + 1) (setRegs s)

theorem ending_ldBVx :
    ending (.ldBVx x) s =
      if 4095 < s.i.toNat + 2 then .error (rangeTrap .memRangeWrite (max s.i.toNat 4096))
      else .ok (setMem s (Memory.pokes s.font s.mem s.i.toNat (decimalDigits (reg s x)))) :=
  storeBytes_map_setMem s (decimalDigits (reg s x)) (List.cons_ne_nil _ _)

theorem ending_ldMemVx :
    ending (.ldMemVx x) s =
      if 4095 < s.i.toNat + x.toNat then .error (rangeTrap .memRangeWrite (max s.i.toNat 4096))
      else .ok (setMem s (Memory.pokes s.font s.mem s.i.toNat (regsUpTo s x))) := by
  have hlen := regsUpTo_length s x
  have hne : regsUpTo s x ≠ [] := List.ne_nil_of_length_pos (by omega)
  have h := storeBytes_map_setMem s (regsUpTo s x) hne
  rwa [hlen, Nat.add_sub_cancel] at h

end Endings

/-! The fatal conditions (60_exceptions.md R162 to R164). -/

/-- An ending is what a line of the cause table says of it. -/
inductive Agrees : Option (BitVec 4 × Nat) → Except Trap State → Prop
  | completes (t : State) : Agrees none (.ok t)
  | raises (e : Trap) {n : Nat} (h : e.info = BitVec.ofNat 17 n) : Agrees (some (e.cause.code, n)) (.error e)

theorem agrees_ite {c : Prop} [Decidable c] {e : Trap} {n : Nat} (t : State) (h : e.info = BitVec.ofNat 17 n) :
    Agrees (if c then some (e.cause.code, n) else none) (if c then .error e else .ok t) := by
  split
  · exact .raises e h
  · exact .completes t

/-- The ending of every instruction is what the cause table says (R162, R164). -/
theorem agrees_fatalOf (i : Instr) (s : State) : Agrees (fatalOf i s) (ending i s) := by
  cases i
  case ret =>
    obtain ⟨hpos, v, t, hpop, -⟩ | ⟨hzero, -⟩ := pop_eq s
    · simp only [fatalOf, ending, hpop, if_neg hpos.ne']
      exact .completes _
    · simp only [fatalOf, ending_ret_of_zero s hzero, if_pos hzero]
      exact .raises ⟨.stackUnderflow, 0⟩ rfl
  case call nnn =>
    obtain ⟨hlt, t, hpush, -⟩ | ⟨hfull, -⟩ := push_eq s s.pc
    · simp only [fatalOf, ending, hpush, if_neg hlt.ne]
      exact .completes _
    · simp only [fatalOf, ending_call_of_full s nnn hfull, if_pos hfull]
      exact .raises ⟨.stackOverflow, nnn.setWidth 17⟩ (setWidth17_eq nnn)
  case jp nnn =>
    rw [ending_jp]
    exact agrees_ite (e := ⟨.jumpToSelf, _⟩) _ (setWidth17_eq nnn)
  case drw x y n =>
    rw [ending_drw]
    exact agrees_ite (e := rangeTrap .memRangeRead _) _ rfl
  case ldVxMem x =>
    rw [ending_ldVxMem]
    exact agrees_ite (e := rangeTrap .memRangeRead _) _ rfl
  case ldBVx x =>
    rw [ending_ldBVx]
    exact agrees_ite (e := rangeTrap .memRangeWrite _) _ rfl
  case ldMemVx x =>
    rw [ending_ldMemVx]
    exact agrees_ite (e := rangeTrap .memRangeWrite _) _ rfl
  case ldFVx x => exact agrees_ite (e := ⟨.fontIndexRange, _⟩) _ (setWidth17_eq (reg s x))
  case skpVx x | sknpVx x => exact agrees_ite (e := ⟨.keyIndexRange, _⟩) _ (setWidth17_eq (reg s x))
  all_goals exact .completes _

/-- Where the table names a condition, the instruction raises it. -/
theorem exists_raised_of_fatalOf {i : Instr} {s : State} {c : BitVec 4} {n : Nat} (h : fatalOf i s = some (c, n)) :
    ∃ t, exec i s = .next t ∧ Raised c n s t := by
  have hagrees := agrees_fatalOf i s
  rw [h] at hagrees
  cases hending : ending i s with
  | ok t => rw [hending] at hagrees; cases hagrees
  | error e =>
    rw [hending] at hagrees
    cases hagrees with
    | raises _ hinfo => exact ⟨_, exec_of_ending_error hending, raised_raise s e rfl hinfo⟩

/-- Where it names none, the instruction completes. -/
theorem exists_ending_of_fatalOf {i : Instr} {s : State} (h : fatalOf i s = none) : ∃ t, ending i s = .ok t := by
  have hagrees := agrees_fatalOf i s
  rw [h] at hagrees
  cases hending : ending i s with
  | ok t => exact ⟨t, rfl⟩
  | error e => rw [hending] at hagrees; cases hagrees

end Sys2Proof.Machine
end

section
/-! What a completed instruction can have updated, said once per kind of update, and the rules of the whole machine that
follow: the frame of every instruction, the invariant, and what a step does to timers, beep and straps. -/

namespace Sys2Proof.Machine

open Sys2Proof.Safety

/-- The kinds of update an instruction makes to `s`, each with the parts of the state it writes. -/
inductive Update (s : State) : List Part → State → Prop
  | reg (x : Reg) (v : Byte) : Update s [.regs] (setReg s x v)
  | regFlag (x : Reg) (v f : Byte) : Update s [.regs] (setRegFlag s x v f)
  | regs (bs : List Byte) : Update s [.regs] (setRegs s bs)
  | index (v : Word) : Update s [.index] (setIndex s v)
  | indexFlag (v : Word) (f : Byte) : Update s [.index, .regs] (setReg (setIndex s v) vf f)
  | display (d : Display) : Update s [.display] (setDisplay s d)
  | sprite (d : Display) (f : Byte) : Update s [.regs, .display] (setReg (setDisplay s d) vf f)
  | memory (a : Nat) (bs : List Byte) : Update s [.memory] (setMem s (Memory.pokes s.font s.mem a bs))
  | delay (v : Byte) : Update s [.dt] (setDt s v)
  | sound (v : Byte) : Update s [.st] (setSt s v)
  | skip (taken : Bool) : Update s [.pc] (skipIf taken s)
  /-- A jump; the largest target is JP V0's (10_state.md R23). -/
  | jump (v : Word) (h : v.toNat ≤ 0x10FE) : Update s [.pc] (setPc s v)
  | key (x : Reg) (v : Byte) : Update s [.regs, .pc] (setReg s x v)
  | wait : Update s [.regs, .pc] (setPc s (pc0 s))
  | call {t : State} (v : Word) (h : v.toNat ≤ 0x10FE) (hpush : push s s.pc = some t) :
      Update s [.stack, .sp, .pc] (setPc t v)
  | ret {t : State} {v : Word} (hpop : pop s = some (v, t)) : Update s [.sp, .pc] (setPc t v)

theorem addr16_le (nnn : BitVec 12) : (addr16 nnn).toNat ≤ 0x10FE := by
  have := nnn.isLt
  rw [addr16_toNat]; omega

theorem reg16_add_addr16_toNat (s : State) (x : Reg) (nnn : BitVec 12) :
    (reg16 s x + addr16 nnn).toNat = (reg s x).toNat + nnn.toNat := by
  have := nnn.isLt
  have := (reg s x).isLt
  rw [BitVec.toNat_add, reg16_toNat, addr16_toNat]; omega

section Rules

variable {i : Instr} {s t : State}

/-- A conditional ending that completed has its second branch. -/
theorem eq_of_ite_eq_ok {c : Prop} [Decidable c] {e : Trap} {u : State}
    (h : (if c then .error e else .ok u : Except Trap State) = .ok t) : t = u := by
  split at h
  · cases h
  · cases h; rfl

/-- Everything an instruction that completes can have done: one update of a kind that writes no part but those
30_encoding.md R68 names. -/
theorem update_of_ending (h : ending i s = .ok t) : Update s (partsWritten i) t := by
  cases i with
  | cls => cases h; exact .display _
  | ret =>
    simp only [ending] at h
    split at h
    · cases h
    · cases h; exact .ret ‹_›
  | jp nnn =>
    obtain rfl := eq_of_ite_eq_ok h
    exact .jump _ (addr16_le nnn)
  | call nnn =>
    simp only [ending] at h
    split at h
    · cases h
    · cases h; exact .call _ (addr16_le nnn) ‹_›
  | seVxNn x nn => cases h; exact .skip _
  | sneVxNn x nn => cases h; exact .skip _
  | seVxVy x y n => cases h; exact .skip _
  | sneVxVy x y n => cases h; exact .skip _
  | ldVxNn x nn => cases h; exact .reg x _
  | addVxNn x nn => cases h; exact .reg x _
  | ldVxVy x y => cases h; exact .reg x _
  | orVxVy x y => cases h; exact .reg x _
  | andVxVy x y => cases h; exact .reg x _
  | xorVxVy x y => cases h; exact .reg x _
  | rndVxNn x nn => cases h; exact .reg x _
  | ldVxDt x => cases h; exact .reg x _
  | addVxVy x y => cases h; exact .regFlag x _ _
  | subVxVy x y => cases h; exact .regFlag x _ _
  | shrVx x y => cases h; exact .regFlag x _ _
  | subnVxVy x y => cases h; exact .regFlag x _ _
  | shlVx x y => cases h; exact .regFlag x _ _
  | ldINnn nnn => cases h; exact .index _
  | jpV0Nnn nnn =>
    cases h
    refine .jump _ ?_
    have := nnn.isLt
    have := (reg s 0).isLt
    rw [reg16_add_addr16_toNat]; omega
  | drw x y n =>
    rw [ending_drw] at h
    obtain rfl := eq_of_ite_eq_ok h
    exact .sprite _ _
  | skpVx x => obtain rfl := eq_of_ite_eq_ok h; exact .skip _
  | sknpVx x => obtain rfl := eq_of_ite_eq_ok h; exact .skip _
  | ldVxK x =>
    cases h
    split
    · exact .wait
    · exact .key x _
  | ldDtVx x => cases h; exact .delay _
  | ldStVx x => cases h; exact .sound _
  | addIVx x => cases h; exact .indexFlag _ _
  | ldFVx x => obtain rfl := eq_of_ite_eq_ok h; exact .index _
  | ldBVx x =>
    rw [ending_ldBVx] at h
    obtain rfl := eq_of_ite_eq_ok h
    exact .memory _ _
  | ldMemVx x =>
    rw [ending_ldMemVx] at h
    obtain rfl := eq_of_ite_eq_ok h
    exact .memory _ _
  | ldVxMem x =>
    rw [ending_ldVxMem] at h
    obtain rfl := eq_of_ite_eq_ok h
    exact .regs _

/-! The frame of an update. -/

theorem keepsAllBut_withStack (s : State) (entries : Vector Word 24) (n : Fin 25) :
    KeepsAllBut [.stack, .sp] s { s with stack := entries, sp := n } := by
  intro p hp; cases p <;> simp_all [Keeps, reg, byteAt]

theorem keepsAllBut_withSp (s : State) (n : Fin 25) : KeepsAllBut [.sp] s { s with sp := n } := by
  intro p hp; cases p <;> simp_all [Keeps, reg, byteAt]

theorem keepsAllBut_push {v : Word} (h : push s v = some t) : KeepsAllBut [.stack, .sp] s t := by
  obtain ⟨-, u, hu, -, -, hsame⟩ | ⟨-, hfull⟩ := push_eq s v
  · obtain rfl : u = t := Option.some.inj (hu.symm.trans h)
    rw [hsame]
    exact keepsAllBut_withStack s _ _
  · rw [hfull] at h; cases h

theorem keepsAllBut_pop {v : Word} (h : pop s = some (v, t)) : KeepsAllBut [.sp] s t := by
  obtain ⟨-, w, u, hu, -, -, hsame⟩ | ⟨-, hempty⟩ := pop_eq s
  · obtain ⟨rfl, rfl⟩ : w = v ∧ u = t := by simpa using hu.symm.trans h
    rw [hsame]
    exact keepsAllBut_withSp s _
  · rw [hempty] at h; cases h

theorem keepsAllBut_skipIf (taken : Bool) (s : State) : KeepsAllBut [.pc] s (skipIf taken s) := by
  cases taken with
  | false => exact keepsAllBut_refl _ s
  | true => exact keepsAllBut_setPc s _

theorem keepsAllBut_of_update {ps : List Part} (h : Update s ps t) : KeepsAllBut ps s t := by
  cases h with
  | reg x v => exact keepsAllBut_setReg s x v
  | regFlag x v f => exact keepsAllBut_setRegFlag s x v f
  | regs bs => exact keepsAllBut_setRegs s bs
  | index v => exact keepsAllBut_setIndex s v
  | indexFlag v f =>
    exact keepsAllBut_trans (keepsAllBut_mono (by simp) (keepsAllBut_setIndex s v))
      (keepsAllBut_mono (by simp) (keepsAllBut_setReg _ vf f))
  | display d => exact keepsAllBut_setDisplay s d
  | sprite d f =>
    exact keepsAllBut_trans (keepsAllBut_mono (by simp) (keepsAllBut_setDisplay s d))
      (keepsAllBut_mono (by simp) (keepsAllBut_setReg _ vf f))
  | memory a bs => exact keepsAllBut_setMem s _
  | delay v => exact keepsAllBut_setDt s v
  | sound v => exact keepsAllBut_setSt s v
  | skip taken => exact keepsAllBut_skipIf taken s
  | jump v _ => exact keepsAllBut_setPc s v
  | key x v => exact keepsAllBut_mono (by simp) (keepsAllBut_setReg s x v)
  | wait => exact keepsAllBut_mono (by simp) (keepsAllBut_setPc s _)
  | call v _ hpush =>
    exact keepsAllBut_trans (keepsAllBut_mono (by simp) (keepsAllBut_push hpush))
      (keepsAllBut_mono (by simp) (keepsAllBut_setPc _ v))
  | ret hpop =>
    exact keepsAllBut_trans (keepsAllBut_mono (by simp) (keepsAllBut_pop hpop))
      (keepsAllBut_mono (by simp) (keepsAllBut_setPc _ _))

/-- The frame of a completed instruction (30_encoding.md R68). -/
theorem keepsAllBut_of_ending (h : ending i s = .ok t) : KeepsAllBut (partsWritten i) s t :=
  keepsAllBut_of_update (update_of_ending h)

/-- No instruction is named for these parts; the latch is written by raising alone. -/
theorem not_mem_partsWritten (i : Instr) :
    .latch ∉ partsWritten i ∧ .straps ∉ partsWritten i ∧ .beep ∉ partsWritten i := by
  cases i <;> simp [partsWritten]

theorem keeps_of_ending (h : ending i s = .ok t) : Keeps .latch s t ∧ Keeps .straps s t ∧ Keeps .beep s t := by
  have hkeep := keepsAllBut_of_ending h
  obtain ⟨hlatch, hstraps, hbeep⟩ := not_mem_partsWritten i
  exact ⟨hkeep _ hlatch, hkeep _ hstraps, hkeep _ hbeep⟩

end Rules

/-- Settles O51: an instruction that leaves the machine running completed with one update. -/
theorem instructionsWriteOnlyWhatTheSummaryNames : Obligations.InstructionsWriteOnlyWhatTheSummaryNames :=
  fun _ _ _ h hrun => keepsAllBut_of_ending (ending_of_exec h hrun)

/-- Settles O50: the ending agrees with the table, raising leaves what `Raised` says, and completing keeps the latch. -/
theorem fatalExactlyAsTheTableSays : Obligations.FatalExactlyAsTheTableSays := by
  intro i s hrun
  cases hfatal : fatalOf i s with
  | none =>
    obtain ⟨t, hending⟩ := exists_ending_of_fatalOf hfatal
    obtain ⟨⟨hhalted, -⟩, -⟩ := keeps_of_ending hending
    exact ⟨t, exec_of_ending_ok hending, by simp, fun _ => hhalted.trans hrun⟩
  | some line =>
    obtain ⟨t, hexec, hraised⟩ := exists_raised_of_fatalOf hfatal
    refine ⟨t, hexec, fun c n hline => ?_, by simp⟩
    cases hline
    exact hraised

end Sys2Proof.Machine
end

section
/-! The rules of a whole step: the invariant at reset and after every step, the timers and the beep, the straps. -/

namespace Sys2Proof.Machine

open Sys2Proof.Safety

/-! ## The invariant -/

/-- Settles O19: Memory at reset lists nothing, the stack is empty and the latch is clear. -/
theorem invariantHoldsAtReset : Obligations.InvariantHoldsAtReset where
  memory := wf_reset
  pcBound _ := by decide
  stackBound _ k hk := absurd hk (Nat.not_lt_zero _)
  causeRange h := nomatch h

theorem code_range (c : Cause) : 1 ≤ c.code.toNat ∧ c.code.toNat ≤ 9 := by cases c <;> decide

/-- Raising meets the invariant whatever the state was: its Memory is canonical, and nothing is asked of pc and
stack. -/
theorem inv_raise (p : Word) (e : Trap) (s : State) : Inv (raise p e s) where
  memory := Memory.wf_ofCells _
  pcBound h := nomatch h
  stackBound h := nomatch h
  causeRange _ := code_range e.cause

/-- The invariant speaks of these fields alone. -/
theorem inv_of_fields_eq {s t : State} (h : Inv s) (hmem : t.mem = s.mem) (hfont : t.font = s.font) (hpc : t.pc = s.pc)
    (hsp : t.sp = s.sp) (hstack : t.stack = s.stack) (hhalted : t.halted = s.halted) (hcause : t.cause = s.cause) :
    Inv t where
  memory := by rw [hmem, hfont]; exact h.memory
  pcBound := by rw [hhalted, hpc]; exact h.pcBound
  stackBound := by rw [hhalted, hsp, hstack]; exact h.stackBound
  causeRange := by rw [hhalted, hcause]; exact h.causeRange

theorem inv_sampleInputs {s : State} (h : Inv s) : Inv (sampleInputs s) :=
  inv_of_fields_eq h rfl rfl rfl rfl rfl rfl rfl

theorem inv_idle {s : State} (h : Inv s) : Inv (idle s) := inv_of_fields_eq h rfl rfl rfl rfl rfl rfl rfl

theorem inv_tick {s : State} (h : Inv s) : Inv (tick s) := inv_of_fields_eq h rfl rfl rfl rfl rfl rfl rfl

theorem inv_setPc {s : State} {v : Word} (h : Inv s) (hv : v.toNat ≤ 0x10FE) : Inv (setPc s v) :=
  ⟨h.memory, fun _ => hv, h.stackBound, h.causeRange⟩

/-! The fetch's advance, a skip and a wait do not wrap where the program counter is small. -/

theorem add_two_toNat {v : Word} (h : v.toNat ≤ 4096) : (v + 2).toNat = v.toNat + 2 := by bv_omega

theorem sub_two_toNat {v : Word} (h : 2 ≤ v.toNat) : (v - 2).toNat = v.toNat - 2 := by bv_omega

section Running

variable {s t : State} (hinv : Inv s) (hrun : s.halted = false)

include hinv

theorem inv_setMem_pokes (a : Nat) (bs : List Byte) : Inv (setMem s (Memory.pokes s.font s.mem a bs)) :=
  ⟨Memory.wf_pokes hinv.memory a bs, hinv.pcBound, hinv.stackBound, hinv.causeRange⟩

/-- A push of a return address CALL can push (10_state.md R33). -/
theorem inv_push {v : Word} (hlo : 2 ≤ v.toNat) (hhi : v.toNat ≤ 4096) (h : push s v = some t) : Inv t := by
  obtain ⟨-, u, hu, hsp, hstack, hsame⟩ | ⟨-, hfull⟩ := push_eq s v
  · obtain rfl : u = t := Option.some.inj (hu.symm.trans h)
    rw [hsame]
    refine ⟨hinv.memory, hinv.pcBound, fun hrun k hk => ?_, hinv.causeRange⟩
    rw [hstack k]
    split
    · exact ⟨hlo, hhi⟩
    · exact hinv.stackBound hrun k (by change k.val < u.sp.val at hk; omega)
  · rw [hfull] at h; cases h

include hrun in
/-- A pop answers a live entry, and leaves fewer of them. -/
theorem inv_pop {v : Word} (h : pop s = some (v, t)) : Inv t ∧ v.toNat ≤ 4096 := by
  obtain ⟨hpos, w, u, hu, hsp, hentry, hsame⟩ | ⟨-, hempty⟩ := pop_eq s
  · obtain ⟨rfl, rfl⟩ : w = v ∧ u = t := by simpa using hu.symm.trans h
    constructor
    · rw [hsame]
      refine ⟨hinv.memory, hinv.pcBound, fun hrun k hk => hinv.stackBound hrun k ?_, hinv.causeRange⟩
      change k.val < u.sp.val at hk
      omega
    · have hlt : s.sp.val - 1 < 24 := by have := s.sp.isLt; omega
      rw [hentry ⟨s.sp.val - 1, hlt⟩ rfl]
      exact (hinv.stackBound hrun ⟨s.sp.val - 1, hlt⟩ (Nat.sub_one_lt_of_lt hpos)).2
  · rw [hempty] at h; cases h

include hrun in
/-- Every update keeps the invariant, from a state whose pc the fetch has just advanced. (Register-load cites the laws
of `setRegs`, since unfolding its fields would evaluate the register vector.) -/
theorem inv_of_update {ps : List Part} (hlo : 2 ≤ s.pc.toNat) (hhi : s.pc.toNat ≤ 4096)
    (h : Update s ps t) : Inv t := by
  cases h with
  | reg | regFlag | index | indexFlag | display | sprite | delay | sound | key =>
    exact inv_of_fields_eq hinv rfl rfl rfl rfl rfl rfl rfl
  | regs bs =>
    exact inv_of_fields_eq hinv (setRegs_mem s bs) (setRegs_font s bs) (setRegs_pc s bs) (setRegs_sp s bs)
      (setRegs_stack s bs) (setRegs_halted s bs) (setRegs_cause s bs)
  | memory a bs => exact inv_setMem_pokes hinv a bs
  | skip taken =>
    cases taken with
    | false => exact hinv
    | true => exact inv_setPc hinv (by rw [add_two_toNat hhi]; omega)
  | jump v hv => exact inv_setPc hinv hv
  | wait => exact inv_setPc hinv (by rw [pc0, sub_two_toNat hlo]; omega)
  | call v hv hpush => exact inv_setPc (inv_push hinv hlo hhi hpush) hv
  | ret hpop =>
    obtain ⟨ht, hv⟩ := inv_pop hinv hrun hpop
    exact inv_setPc ht (by omega)

end Running

/-- Settles O20, by what a step can do: an empty cycle changes nothing the invariant speaks of, a fatal cycle meets it
anew, and an instruction makes one update from the state the fetch has advanced. -/
theorem stepKeepsInvariant : Obligations.StepKeepsInvariant := by
  intro s t hinv hstep
  obtain ⟨-, rfl⟩ | ⟨-, -, rfl⟩ | ⟨op, e, -, -, rfl⟩ | ⟨op, i, u, ⟨hrun, hpc, -⟩, -, hexec, rfl⟩ :=
    step_cases hstep
  · exact inv_sampleInputs (inv_idle hinv)
  · exact inv_sampleInputs (inv_raise _ _ _)
  · exact inv_sampleInputs (inv_raise _ _ _)
  · apply inv_sampleInputs
    rcases exec_cases hexec with hending | ⟨e, -, rfl⟩
    · have hadvance : (s.pc + 2).toNat = s.pc.toNat + 2 := by bv_omega
      have hinv' : Inv (advance (tick s)) := inv_setPc (inv_tick hinv) (by rw [tick_pc]; omega)
      refine inv_of_update hinv' hrun ?_ ?_ (update_of_ending hending) <;> rw [advance_pc, tick_pc] <;> omega
    · exact inv_raise _ _ _

/-! ## Beep, straps and timers -/

section Exec

variable {i : Instr} {s t : State}

/-- Neither completing nor raising writes the beep. -/
theorem beep_of_exec (h : exec i s = .next t) : t.beep = s.beep := by
  rcases exec_cases h with hending | ⟨e, -, rfl⟩
  · obtain ⟨-, -, hbeep⟩ := keeps_of_ending hending
    exact hbeep
  · rfl

theorem keeps_straps_of_exec (h : exec i s = .next t) : Keeps .straps s t := by
  rcases exec_cases h with hending | ⟨e, -, rfl⟩
  · obtain ⟨-, hstraps, -⟩ := keeps_of_ending hending
    exact hstraps
  · exact ⟨rfl, rfl, rfl⟩

theorem eq_ldDtVx_of_dt_mem (h : .dt ∈ partsWritten i) : ∃ x, i = .ldDtVx x := by
  cases i <;> simp_all [partsWritten]

theorem eq_ldStVx_of_st_mem (h : .st ∈ partsWritten i) : ∃ x, i = .ldStVx x := by
  cases i <;> simp_all [partsWritten]

end Exec

/-- A running step's beep is the one its tick emitted, whatever the cycle went on to do. -/
theorem beep_of_step {s t : State} (hrun : s.halted = false) (h : step s = .next t) : t.beep = (tick s).beep := by
  obtain ⟨hhalted, -⟩ | ⟨-, -, rfl⟩ | ⟨op, e, -, -, rfl⟩ | ⟨op, i, u, -, -, hexec, rfl⟩ := step_cases h
  · rw [hrun] at hhalted; cases hhalted
  · rfl
  · rfl
  · have hbeep := beep_of_exec hexec
    exact hbeep

/-- Settles O12: the empty cycle drops the beep, and any other cycle's beep is the tick's. -/
theorem beepMarksEachSoundTimerDecrement : Obligations.BeepMarksEachSoundTimerDecrement := by
  intro s t hstep
  cases hrun : s.halted with
  | true =>
    obtain rfl : sampleInputs (idle s) = t := by simpa [step_of_halted hrun] using hstep
    simp
  | false =>
    rw [beep_of_step hrun hstep]
    simp [tickDue]

/-- Settles O14: raising and every update keep the straps, and so does the rest of the cycle. -/
theorem strapsAreFixedForTheRun : Obligations.StrapsAreFixedForTheRun := by
  intro s t hstep
  obtain ⟨-, rfl⟩ | ⟨-, -, rfl⟩ | ⟨op, e, -, -, rfl⟩ | ⟨op, i, u, -, -, hexec, rfl⟩ := step_cases hstep
  · exact ⟨rfl, rfl, rfl⟩
  · exact ⟨rfl, rfl, rfl⟩
  · exact ⟨rfl, rfl, rfl⟩
  · have hstraps := keeps_straps_of_exec hexec
    exact hstraps

theorem tick_dt_le (s : State) : (tick s).dt.toNat ≤ s.dt.toNat := by
  rw [tick_dt]; split
  · rw [countDown_toNat]; omega
  · rfl

theorem tick_st_le (s : State) : (tick s).st.toNat ≤ s.st.toNat := by
  rw [tick_st]; split
  · rw [countDown_toNat]; omega
  · rfl

/-- A step that does not end in the fatal state ran the word it fetched, to completion. -/
theorem exists_ending_of_step {s t : State} {op : Word} (hfetch : Fetches s op) (hstep : step s = .next t)
    (hrun : t.halted = false) :
    ∃ i u, decodeWord op = .ok i ∧ ending i (advance (tick s)) = .ok u ∧ t = sampleInputs u := by
  obtain ⟨hhalted, -⟩ | ⟨-, -, rfl⟩ | ⟨op', e, -, -, rfl⟩ | ⟨op', i, u, hfetch', hdecode, hexec, rfl⟩ :=
    step_cases hstep
  · rw [halted_of_fetches hfetch] at hhalted; cases hhalted
  · cases hrun
  · cases hrun
  · rw [fetches_unique hfetch hfetch']
    exact ⟨i, u, hdecode, ending_of_exec hexec hrun, rfl⟩

/-- Settles O13: the tick does not raise a timer, and no instruction but the timer's load writes it. -/
theorem timersRiseOnlyByLoads : Obligations.TimersRiseOnlyByLoads := by
  intro s t op hfetch hstep hrun
  obtain ⟨i, u, hdecode, hending, rfl⟩ := exists_ending_of_step hfetch hstep hrun
  have hkeep := keepsAllBut_of_ending hending
  constructor
  · intro hload
    have hdt : u.dt = (tick s).dt := hkeep .dt fun hmem => by
      obtain ⟨x, rfl⟩ := eq_ldDtVx_of_dt_mem hmem
      exact hload x hdecode
    rw [sampleInputs_dt, hdt]
    exact tick_dt_le s
  · intro hload
    have hst : u.st = (tick s).st := hkeep .st fun hmem => by
      obtain ⟨x, rfl⟩ := eq_ldStVx_of_st_mem hmem
      exact hload x hdecode
    rw [sampleInputs_st, hst]
    exact tick_st_le s

end Sys2Proof.Machine
end

section
/-! Two rules of every instruction: which write VF as a side effect (10_state.md R21), and that none reads the sound
timer (10_state.md R26, R33). -/

namespace Sys2Proof.Machine

open Sys2Proof.Safety

/-! ## The flag register -/

theorem flagByte_cases (b : Bool) : flagByte b = 0 ∨ flagByte b = 1 := by
  cases b
  · exact .inl rfl
  · exact .inr rfl

theorem reg_setRegFlag_vf (s : State) (x : Reg) (v f : Byte) : reg (setRegFlag s x v f) 15 = f := by
  rw [reg_setRegFlag]; exact if_pos rfl

theorem reg_setReg_of_ne (s : State) {x q : Reg} (v : Byte) (h : q ≠ x) : reg (setReg s x v) q = reg s q := by
  rw [reg_setReg, if_neg h]

theorem reg_setReg_vf (s : State) (f : Byte) : reg (setReg s vf f) 15 = f := by
  rw [reg_setReg]; exact if_pos rfl

section Flag

variable {i : Instr} {s t : State}

/-- What the seven instructions leave in VF is a flag byte. -/
theorem vf_of_writesFlag (h : ending i s = .ok t) (hw : writesFlag i = true) : ∃ b, reg t 15 = flagByte b := by
  cases i
  case addVxVy | subVxVy | shrVx | subnVxVy | shlVx =>
    cases h
    exact ⟨_, reg_setRegFlag_vf ..⟩
  case drw x y n =>
    rw [ending_drw] at h
    obtain rfl := eq_of_ite_eq_ok h
    exact ⟨_, reg_setReg_vf ..⟩
  case addIVx x =>
    cases h
    exact ⟨_, reg_setReg_vf ..⟩
  all_goals cases hw

/-- Of the other instructions, those that write registers write no VF but through their X field. -/
theorem vf_of_not_writesFlag (h : ending i s = .ok t) (hw : writesFlag i = false) (hx : fieldXOf i ≠ some 15) :
    reg t 15 = reg s 15 := by
  by_cases hregs : Part.regs ∈ partsWritten i
  case neg => exact keepsAllBut_of_ending h .regs hregs 15
  cases i
  case ldVxNn x _ | addVxNn x _ | rndVxNn x _ | ldVxDt x | ldVxVy x _ | orVxVy x _ | andVxVy x _ | xorVxVy x _ =>
    cases h
    exact reg_setReg_of_ne s _ fun heq => hx (congrArg some heq.symm)
  case ldVxK x =>
    cases h
    split
    · rfl
    · exact reg_setReg_of_ne s _ fun heq => hx (congrArg some heq.symm)
  case ldVxMem x =>
    rw [ending_ldVxMem] at h
    obtain rfl := eq_of_ite_eq_ok h
    have hlt : x.toNat < 15 := by
      have hne : x ≠ 15 := fun heq => hx (congrArg some heq)
      bv_omega
    have hnone : (bytesFrom s (x.toNat + 1))[(15 : Reg).toNat]? = none :=
      List.getElem?_eq_none (by rw [bytesFrom_length]; exact hlt)
    rw [reg_setRegs, hnone, Option.getD_none]
  case addVxVy | subVxVy | shrVx | subnVxVy | shlVx | drw | addIVx => cases hw
  all_goals simp [partsWritten] at hregs

end Flag

/-- Settles O52: a flag byte is 0 or 1, and any other register write goes to the X field. -/
theorem onlySevenInstructionsWriteTheFlag : Obligations.OnlySevenInstructionsWriteTheFlag := by
  intro i s t hexec hrun
  have hending := ending_of_exec hexec hrun
  refine ⟨fun hw => ?_, vf_of_not_writesFlag hending⟩
  obtain ⟨b, hb⟩ := vf_of_writesFlag hending hw
  rw [hb]
  exact flagByte_cases b

/-! ## The sound timer -/

theorem pop_setSt (s : State) (v : Byte) :
    pop (setSt s v) = (pop s).map fun (w, t) => (w, setSt t v) := by
  unfold pop
  rw [apply_dite (Option.map _)]
  rfl

theorem push_setSt (s : State) (w : Word) (v : Byte) :
    push (setSt s v) w = (push s w).map fun t => setSt t v := by
  unfold push
  rw [apply_dite (Option.map _)]
  rfl

theorem map_map_setSt {α : Type} (r : Except Trap α) (g g' : α → State) (v : Byte)
    (h : ∀ a, g' a = setSt (g a) v) : r.map g' = (r.map g).map fun t => setSt t v := by
  cases r with
  | error e => rfl
  | ok a => exact congrArg Except.ok (h a)

theorem ite_map_setSt {c : Prop} [Decidable c] (e : Trap) (t : State) (v : Byte) :
    (if c then .error e else .ok (setSt t v)) =
      (if c then .error e else .ok t : Except Trap State).map fun t => setSt t v := by
  split <;> rfl

theorem skipIf_setSt (c : Bool) (s : State) (v : Byte) : skipIf c (setSt s v) = setSt (skipIf c s) v := by
  cases c <;> rfl

/-- Setting the sound timer before an instruction is setting it after, for every instruction but the one that loads
it. -/
theorem ending_setSt (i : Instr) (s : State) (v : Byte) (hi : ∀ x, i ≠ .ldStVx x) :
    ending i (setSt s v) = (ending i s).map fun t => setSt t v := by
  cases i
  case ldStVx x => exact absurd rfl (hi x)
  case ret =>
    simp only [ending, pop_setSt]
    cases pop s <;> rfl
  case call nnn =>
    simp only [ending, setSt_pc, push_setSt]
    cases push s s.pc <;> rfl
  case jp nnn => exact ite_map_setSt _ (setPc s (addr16 nnn)) v
  case ldFVx x => exact ite_map_setSt _ (setIndex s (glyphAddr (reg s x))) v
  case skpVx x | sknpVx x =>
    simp only [ending, skipIf_setSt]
    exact ite_map_setSt _ _ v
  case seVxNn | sneVxNn | seVxVy | sneVxVy => exact congrArg Except.ok (skipIf_setSt ..)
  case ldVxK x =>
    have hkey : lowestKey (setSt s v) = lowestKey s := rfl
    simp only [ending, hkey]
    cases lowestKey s <;> rfl
  case drw | ldBVx | ldMemVx | ldVxMem => exact map_map_setSt _ _ _ v fun _ => rfl
  all_goals rfl

/-- Settles O53: the trap, if there is one, is the same; a completed instruction leaves the timer as it was set, or, if
it is the load of the timer, the same state. -/
theorem soundTimerCannotBeRead : Obligations.SoundTimerCannotBeRead := by
  intro i s t v hexec
  by_cases hi : ∀ x, i ≠ .ldStVx x
  case neg =>
    obtain ⟨x, rfl⟩ := by simpa using hi
    cases hexec
    exact ⟨_, rfl, ⟨rfl, rfl, rfl, rfl⟩, fun _ => rfl⟩
  have hset := ending_setSt i s v hi
  rcases exec_cases hexec with hending | ⟨e, hending, rfl⟩
  · rw [hending] at hset
    exact ⟨_, exec_of_ending_ok hset, ⟨rfl, rfl, rfl, rfl⟩, fun _ => rfl⟩
  · rw [hending] at hset
    exact ⟨_, exec_of_ending_error hset, ⟨rfl, rfl, rfl, rfl⟩, fun hrun => nomatch hrun⟩

end Sys2Proof.Machine
end

section
/-! Control transfer (40_control.md), the keyed skips, get-key (44_input_timers.md R151 to R153) and the glyph address
(42_address_memory.md R132). A completing clause names the ending, whose frame is `keepsAllBut_of_ending`; a fatal
clause is the line of the cause table. -/

namespace Sys2Proof.Machine

open Sys2Proof.Safety

/-! ## Control transfer -/

/-- Settles O21, by what a pop can do. -/
theorem returnPopsIntoPc : Obligations.ReturnPopsIntoPc := by
  intro s
  refine ⟨fun hpos => ?completes, fun hzero => exists_raised_of_fatalOf (by simp [fatalOf, hzero])⟩
  obtain ⟨-, v, t, hpop, hsp, hentry, -⟩ | ⟨hzero, -⟩ := pop_eq s
  · have hending : ending .ret s = .ok (setPc t v) := by simp only [ending, hpop]
    exact ⟨_, exec_of_ending_ok hending, hsp, hentry, keepsAllBut_of_ending hending⟩
  · omega

/-- Settles O22, by the jump's guard. -/
theorem jumpGoesToItsTarget : Obligations.JumpGoesToItsTarget := by
  intro s nnn
  refine ⟨fun hother => ?completes, fun hself => exists_raised_of_fatalOf (by simp [fatalOf, hself])⟩
  have hending : ending (.jp nnn) s = .ok (setPc s (addr16 nnn)) := by rw [ending_jp, if_neg hother]
  exact ⟨_, exec_of_ending_ok hending, addr16_toNat nnn, keepsAllBut_of_ending hending⟩

/-- Settles O23, by what a push can do. -/
theorem callPushesTheReturnAddress : Obligations.CallPushesTheReturnAddress := by
  intro s nnn
  refine ⟨fun hlt => ?completes, fun hfull => exists_raised_of_fatalOf (by simp [fatalOf, hfull])⟩
  obtain ⟨-, t, hpush, hsp, hstack, -⟩ | ⟨hfull, -⟩ := push_eq s s.pc
  · have hending : ending (.call nnn) s = .ok (setPc t (addr16 nnn)) := by simp only [ending, hpush]
    refine ⟨_, exec_of_ending_ok hending, addr16_toNat nnn, hsp, fun k hk => ?_, fun k hk => ?_,
      keepsAllBut_of_ending hending⟩
    · rw [setPc_stack, hstack, if_pos hk]
    · rw [setPc_stack, hstack, if_neg hk]
  · omega

/-- Settles O24: a byte and a 12-bit address do not wrap in 16 bits. -/
theorem jumpRelativeAddsV0 : Obligations.JumpRelativeAddsV0 := by
  intro s nnn
  exact ⟨_, exec_of_ending_ok rfl, reg16_add_addr16_toNat s 0 nnn, keepsAllBut_setPc s _⟩

/-- Settles O26: each instruction is a skip whose Boolean condition decides the stated comparison. -/
theorem registerSkips : Obligations.RegisterSkips := by
  intro s x y n
  refine ⟨⟨_, exec_of_ending_ok rfl, ?equal⟩, ⟨_, exec_of_ending_ok rfl, ?unequal⟩⟩
  case equal => exact skipsWhen_skipIf s beq_iff_eq
  case unequal => exact skipsWhen_skipIf s bne_iff_ne

/-- Settles O27, from what CALL pushes and what RET pops: the entry RET pops is the one CALL pushed. -/
theorem returnUndoesCall : Obligations.ReturnUndoesCall := by
  intro s t u nnn hlt hcall hsp hentry
  obtain ⟨t', hcall', -, htsp, hpushed, -, -⟩ := (callPushesTheReturnAddress s nnn).1 hlt
  obtain rfl : t' = t := by simpa [hcall'] using hcall
  have husp : u.sp.val = s.sp.val + 1 := by rw [hsp, htsp]
  obtain ⟨v, hret, hvsp, hvpc, hkeep⟩ := (returnPopsIntoPc u).1 (by omega)
  refine ⟨v, hret, ?_, Fin.ext (by omega), hkeep⟩
  calc v.pc = u.stack[(⟨s.sp.val, hlt⟩ : Fin 24)] := hvpc _ (by simp [husp])
    _ = t'.stack[(⟨s.sp.val, hlt⟩ : Fin 24)] := hentry _ rfl
    _ = s.pc := hpushed _ rfl

/-! ## Keys and glyphs -/

/-- Settles O46: each instruction is a skip on the key's level, guarded by the register's value. -/
theorem keySkips : Obligations.KeySkips := by
  intro s x
  refine ⟨fun hle =>
      ⟨⟨_, exec_of_ending_ok (if_neg hle.not_gt), ?down⟩, ⟨_, exec_of_ending_ok (if_neg hle.not_gt), ?up⟩⟩,
    fun hgt => ⟨exists_raised_of_fatalOf (if_pos hgt), exists_raised_of_fatalOf (if_pos hgt)⟩⟩
  case down => exact skipsWhen_skipIf s beq_iff_eq
  case up => exact skipsWhen_skipIf s beq_iff_eq

/-- Settles O37: a digit's glyph address, guarded by the register's value. -/
theorem loadGlyphAddress : Obligations.LoadGlyphAddress := by
  intro s x
  refine ⟨fun hle => ?completes, fun hgt => exists_raised_of_fatalOf (if_pos hgt)⟩
  exact ⟨_, exec_of_ending_ok (if_neg hle.not_gt), glyphAddr_toNat (reg s x), keepsAllBut_setIndex s _⟩

/-- The key code GET-KEY takes, as the key lines give it (44_input_timers.md R153). -/
theorem lowestKey_eq_some_iff (s : State) (k : Nat) :
    lowestKey s = some k ↔
      s.keyDown.getLsbD k = true ∧ k < 16 ∧ ∀ j, j < k → s.keyDown.getLsbD j = false := by
  simp [lowestKey, List.find?_range_eq_some, keyIsDown]

theorem lowestKey_of_no_key {s : State} (h : s.keyDown = 0) : lowestKey s = none := by
  simp [lowestKey, keyIsDown, h]

theorem ending_ldVxK_of_lowestKey {s : State} (x : Reg) {k : Nat} (h : lowestKey s = some k) :
    ending (.ldVxK x) s = .ok (setReg s x (BitVec.ofNat 8 k)) := by
  simp only [ending, h]

theorem ending_ldVxK_of_no_key {s : State} (x : Reg) (h : s.keyDown = 0) :
    ending (.ldVxK x) s = .ok (setPc s (pc0 s)) := by
  simp only [ending, lowestKey_of_no_key h]

/-- Settles O47: the key codes are searched upward, so the one found is the lowest. -/
theorem getKeyTakesTheLowestKeyOrWaits : Obligations.GetKeyTakesTheLowestKeyOrWaits := by
  intro s x
  refine ⟨fun k hlt hdown hlower => ?taken, fun hnone => ?waits⟩
  case taken =>
    have hkey := (lowestKey_eq_some_iff s k).mpr ⟨hdown, hlt, hlower⟩
    exact ⟨_, exec_of_ending_ok (ending_ldVxK_of_lowestKey x hkey), writesReg_setReg s x _⟩
  case waits => exact ⟨_, exec_of_ending_ok (ending_ldVxK_of_no_key x hnone), rfl, keepsAllBut_setPc s _⟩

/-- A word that is fetched is fetched again from a state that keeps pc, Memory and a clear latch. -/
theorem fetches_of_keepsAllBut {s t : State} {op : Word} (h : Fetches s op)
    (hkeep : KeepsAllBut [.dt, .st, .tickRef, .beep, .inputs] s t) : Fetches t op := by
  obtain ⟨hrun, hpc, hop⟩ := h
  have hpc' : t.pc = s.pc := hkeep .pc (by simp)
  have hmem : ∀ a, byteAt t a = byteAt s a := hkeep .memory (by simp)
  obtain ⟨hhalted, -⟩ : Keeps .latch s t := hkeep .latch (by simp)
  refine ⟨hhalted.trans hrun, ?_, ?_⟩
  · rwa [hpc']
  · rw [hmem, hmem, hpc', hop]

/-- Going back to the instruction's own address undoes the fetch's advance, so of a waiting cycle the tick is left. -/
theorem setPc_pc0_advance (s : State) : setPc (advance s) (pc0 (advance s)) = s := by
  have hpc : s.pc + 2 - 2 = s.pc := BitVec.add_sub_cancel _ _
  simp only [pc0, advance_pc, hpc]
  rfl

/-- Settles O48: the cycle is the tick and the new input lines, and nothing else. -/
theorem waitingGetKeyMakesNoProgress : Obligations.WaitingGetKeyMakesNoProgress := by
  intro s x hfetch hnone
  have hexec : exec (.ldVxK x) (advance (tick s)) = .next (tick s) := by
    rw [exec_of_ending_ok (ending_ldVxK_of_no_key x (by simpa using hnone)), setPc_pc0_advance]
  have hstep := step_of_decodeWord_ok hfetch (decodeWord_encodeWord _) hexec
  have hkeep : KeepsAllBut [.dt, .st, .tickRef, .beep, .inputs] s (sampleInputs (tick s)) :=
    keepsAllBut_trans (keepsAllBut_mono (by simp) (keepsAllBut_tick s))
      (keepsAllBut_mono (by simp) (keepsAllBut_sampleInputs (tick s)))
  exact ⟨_, hstep, hkeep, fetches_of_keepsAllBut hfetch hkeep⟩

end Sys2Proof.Machine
end

section
/-! The flag-writing instructions (41_load_alu.md R116 to R120; 42_address_memory.md R131): each writes a result and
after it a flag, and the lemmas here say what result and flag are as numbers. -/

namespace Sys2Proof.Machine

open Sys2Proof.Safety

/-! The flags' conditions, as numbers. -/

theorem add_lt_iff_carry (a b : Byte) : decide (a + b < b) = true ↔ 255 < a.toNat + b.toNat := by
  have := a.isLt
  have := b.isLt
  rw [decide_eq_true_iff, BitVec.lt_def, BitVec.toNat_add]
  omega

theorem lt_iff_greater (a b : Byte) : decide (b < a) = true ↔ b.toNat < a.toNat := by
  rw [decide_eq_true_iff, BitVec.lt_def]

theorem bit0_iff_odd (a : Byte) : a.getLsbD 0 = true ↔ a.toNat % 2 = 1 := by
  rw [BitVec.getLsbD, Nat.testBit_zero, decide_eq_true_iff]

theorem bit7_iff_ge (a : Byte) : a.getLsbD 7 = true ↔ 128 ≤ a.toNat := by
  have hmsb : a.getLsbD 7 = a.msb := (BitVec.msb_eq_getLsbD_last a).symm
  rw [hmsb, BitVec.msb_eq_decide, decide_eq_true_iff]

/-! The results, as numbers. -/

theorem add_eq_ofNat (a b : Byte) : a + b = BitVec.ofNat 8 ((a.toNat + b.toNat) % 256) := by
  apply BitVec.eq_of_toNat_eq
  simp

theorem sub_eq_ofNat (a b : Byte) : a - b = BitVec.ofNat 8 ((a.toNat + 256 - b.toNat) % 256) := by
  apply BitVec.eq_of_toNat_eq
  rw [BitVec.toNat_sub, BitVec.toNat_ofNat]
  omega

theorem shiftRight_eq_ofNat (a : Byte) : a >>> 1 = BitVec.ofNat 8 (a.toNat / 2) := by
  apply BitVec.eq_of_toNat_eq
  rw [BitVec.toNat_ushiftRight, Nat.shiftRight_eq_div_pow, BitVec.toNat_ofNat]
  omega

theorem shiftLeft_eq_ofNat (a : Byte) : a <<< 1 = BitVec.ofNat 8 (a.toNat * 2 % 256) := by
  apply BitVec.eq_of_toNat_eq
  rw [BitVec.toNat_shiftLeft, Nat.shiftLeft_eq, BitVec.toNat_ofNat]
  omega

/-- An instruction that completes with a result and a flag, with both in the statement's terms. -/
theorem exists_writesRegThenFlag {i : Instr} {s : State} {x : Reg} {v w : Byte} {b : Bool} {q : Prop}
    (h : ending i s = .ok (setRegFlag s x v (flagByte b))) (hv : v = w) (hb : b = true ↔ q) :
    ∃ t, exec i s = .next t ∧ WritesRegThenFlag x w q s t := by
  subst hv
  exact ⟨_, exec_of_ending_ok h, writesRegThenFlag_setRegFlag s x v hb⟩

/-- Which of the two values the flag register holds decides the flag. -/
theorem vf_eq_one_iff {x : Reg} {v : Byte} {q : Prop} {s t : State} (h : WritesRegThenFlag x v q s t) :
    reg t 15 = 1 ↔ q := by
  obtain ⟨-, ⟨hq, hone⟩ | ⟨hq, hzero⟩, -⟩ := h
  · exact iff_of_true hone hq
  · exact iff_of_false (by rw [hzero]; decide) hq

/-- Settles O31: the sum and its carry, which is also that the sum wrapped below the added operand. -/
theorem addWritesSumThenCarry : Obligations.AddWritesSumThenCarry := by
  intro s x y
  obtain ⟨t, hexec, hwrites⟩ := exists_writesRegThenFlag (i := .addVxVy x y) (s := s) rfl
    (add_eq_ofNat (reg s x) (reg s y)) (add_lt_iff_carry (reg s x) (reg s y))
  refine ⟨t, hexec, hwrites, (vf_eq_one_iff hwrites).trans ?_⟩
  have := (reg s x).isLt
  have := (reg s y).isLt
  omega

/-- Settles O32: the difference of the old values either way round, and whether the minuend was greater. -/
theorem subtractWritesDifferenceThenGreater : Obligations.SubtractWritesDifferenceThenGreater := by
  intro s x y
  refine ⟨?sub, ?subn⟩
  case sub =>
    exact exists_writesRegThenFlag (i := .subVxVy x y) rfl (sub_eq_ofNat _ _) (lt_iff_greater (reg s x) (reg s y))
  case subn =>
    exact exists_writesRegThenFlag (i := .subnVxVy x y) rfl (sub_eq_ofNat _ _) (lt_iff_greater (reg s y) (reg s x))

/-- Settles O33: half and double of the old value, and the bit that fell out. -/
theorem shiftsWriteTheBitShiftedOut : Obligations.ShiftsWriteTheBitShiftedOut := by
  intro s x y
  refine ⟨?right, ?left⟩
  case right =>
    exact exists_writesRegThenFlag (i := .shrVx x y) rfl (shiftRight_eq_ofNat _) (bit0_iff_odd (reg s x))
  case left =>
    exact exists_writesRegThenFlag (i := .shlVx x y) rfl (shiftLeft_eq_ofNat _) (bit7_iff_ge (reg s x))

/-- Settles O36: the new I decides the flag, and VF is the one register written. -/
theorem addToAddressFlagsAboveMemory : Obligations.AddToAddressFlagsAboveMemory := by
  intro s x
  have hending : ending (.addIVx x) s =
      .ok (setReg (setIndex s (s.i + reg16 s x)) vf (addressFlag (s.i + reg16 s x))) := rfl
  refine ⟨_, exec_of_ending_ok hending, ?_, ?_, fun r hr => ?_, keepsAllBut_of_ending hending⟩
  · rw [setReg_i, setIndex_i, BitVec.toNat_add, reg16_toNat]
  · rw [reg_setReg_vf, setReg_i, setIndex_i, addressFlag]
    by_cases hgt : 0x0FFF < (s.i + reg16 s x).toNat
    · exact .inl ⟨hgt, (flagByte_eq_one _).mpr (decide_eq_true hgt)⟩
    · exact .inr ⟨hgt, (flagByte_eq_zero _).mpr (decide_eq_false hgt)⟩
  · exact reg_setReg_of_ne _ _ fun heq => hr (List.mem_singleton.mpr heq)

end Sys2Proof.Machine
end

section
/-! Blocks of Memory: what LD B,Vx and register-dump store and register-load reads (42_address_memory.md R133 to R136),
the loader, and Memory at reset. -/

namespace Sys2Proof.Machine

open Sys2Proof.Safety

/-! A block written inside Memory, byte by byte. -/

section Block

variable {s : State} {a : Nat} {bs : List Byte} (h : a + bs.length ≤ 4096)

include h

theorem byteAt_pokes_inside {k : Nat} {b : Byte} (hk : bs[k]? = some b) :
    byteAt (setMem s (Memory.pokes s.font s.mem a bs)) (a + k) = b := by
  rw [byteAt_setMem_pokes s a (a + k) bs h, if_pos (Nat.le_add_right a k), Nat.add_sub_cancel_left, hk,
    Option.getD_some]

theorem byteAt_pokes_outside {c : Nat} (hc : c < a ∨ a + bs.length ≤ c) :
    byteAt (setMem s (Memory.pokes s.font s.mem a bs)) c = byteAt s c := by
  rw [byteAt_setMem_pokes s a c bs h]
  split
  · rw [List.getElem?_eq_none (by omega), Option.getD_none]
  · rfl

end Block

/-- Settles O38: the block of the three digits, none of which exceeds a byte. -/
theorem decimalDigitsAreStored : Obligations.DecimalDigitsAreStored := by
  intro s x
  refine ⟨fun hle => ?completes, fun hgt => exists_raised_of_fatalOf (if_pos hgt)⟩
  have hending := (ending_ldBVx s x).trans (if_neg hle.not_gt)
  have hfits : s.i.toNat + (decimalDigits (reg s x)).length ≤ 4096 := by rw [decimalDigits_length]; omega
  have := (reg s x).isLt
  refine ⟨_, exec_of_ending_ok hending, ?_, ?_, ?_, fun a ha => ?_, keepsAllBut_of_ending hending⟩
  · exact (congrArg BitVec.toNat (byteAt_pokes_inside (k := 0) hfits rfl)).trans (Nat.mod_eq_of_lt (by omega))
  · exact (congrArg BitVec.toNat (byteAt_pokes_inside (k := 1) hfits rfl)).trans (Nat.mod_eq_of_lt (by omega))
  · exact (congrArg BitVec.toNat (byteAt_pokes_inside (k := 2) hfits rfl)).trans (Nat.mod_eq_of_lt (by omega))
  · exact byteAt_pokes_outside hfits (by rw [decimalDigits_length]; omega)

/-- Settles O39: the block of the registers. -/
theorem registerDumpStoresRegisters : Obligations.RegisterDumpStoresRegisters := by
  intro s x
  refine ⟨fun hle => ?completes, fun hgt => exists_raised_of_fatalOf (if_pos hgt)⟩
  have hending := (ending_ldMemVx s x).trans (if_neg hle.not_gt)
  have hfits : s.i.toNat + (regsUpTo s x).length ≤ 4096 := by rw [regsUpTo_length]; omega
  refine ⟨_, exec_of_ending_ok hending, fun r hr => ?_, fun a ha => ?_, keepsAllBut_of_ending hending⟩
  · exact byteAt_pokes_inside hfits (regsUpTo_getElem? s x r hr)
  · exact byteAt_pokes_outside hfits (by rw [regsUpTo_length]; omega)

/-- Settles O40: the bytes from I on go to the registers they number. -/
theorem registerLoadReadsRegisters : Obligations.RegisterLoadReadsRegisters := by
  intro s x
  refine ⟨fun hle => ?completes, fun hgt => exists_raised_of_fatalOf (if_pos hgt)⟩
  have hending := (ending_ldVxMem s x).trans (if_neg hle.not_gt)
  refine ⟨_, exec_of_ending_ok hending, fun r hr => ?_, fun r hr => ?_, keepsAllBut_of_ending hending⟩
  · rw [reg_setRegs, bytesFrom_getElem? s (Nat.lt_succ_of_le hr), Option.getD_some]
  · rw [reg_setRegs, List.getElem?_eq_none (by rw [bytesFrom_length]; exact hr), Option.getD_none]

/-- Settles O41, from what the dump stores and what the load reads. -/
theorem dumpThenLoadRestoresRegisters : Obligations.DumpThenLoadRestoresRegisters := by
  intro s t u x hle hdump hbytes hindex
  obtain ⟨t', hdump', hstored, -, hkeep⟩ := (registerDumpStoresRegisters s x).1 hle
  obtain rfl : t' = t := by simpa [hdump'] using hdump
  have hi : u.i = s.i := hindex.trans (hkeep .index (by simp))
  obtain ⟨v, hload, hread, -⟩ := (registerLoadReadsRegisters u x).1 (by rwa [hi])
  refine ⟨v, hload, fun r hr => ?_⟩
  rw [hread r hr, hi, hbytes, hstored r hr]

/-! ## The loader and reset -/

/-- Settles O16: a block from 512 on; an image that fits ends at the end of Memory. -/
theorem loaderPlacesTheImage : Obligations.LoaderPlacesTheImage := by
  intro image s
  refine ⟨fun hle => ?placed, fun hgt => if_neg hgt.not_ge⟩
  have hfits : 512 + image.length ≤ 4096 := by omega
  refine ⟨_, if_pos hle, fun k hk => ?_, fun a ha => ?_, keepsAllBut_setMem s _⟩
  · exact byteAt_pokes_inside hfits (List.getElem?_eq_getElem hk)
  · exact byteAt_pokes_outside hfits ha

/-- No byte is listed at reset, so each reads as the font or the launch value. -/
theorem byteAt_reset (f : Font) (a : Nat) : byteAt { State.reset with font := f } a = Memory.unlisted f a := rfl

theorem unlisted_glyph0 (f : Font) {a : Nat} (h : a < 5) : Memory.unlisted f a = glyph0[a] := by
  simp [Memory.unlisted, fontByte?, h]

theorem unlisted_font (f : Font) {a : Nat} (h : a < 75) : Memory.unlisted f (5 + a) = f[a] := by
  simp [Memory.unlisted, fontByte?, show 5 + a < 80 by omega]

theorem unlisted_memInit (f : Font) {a : Nat} (h : 80 ≤ a) : Memory.unlisted f a = Config.memInit a := by
  simp [Memory.unlisted, fontByte?, show ¬ a < 5 by omega, show ¬ a < 80 by omega]

/-- Settles O15: the fields are those `State.reset` writes, and Memory reads as unlisted everywhere. -/
theorem resetIsTheStateTheSpecGives : Obligations.ResetIsTheStateTheSpecGives := by
  refine ⟨fun r => ?_, rfl, rfl, rfl, fun k => ?_, rfl, rfl, pixel_blank, rfl, rfl, rfl, rfl, fun f a => ?_⟩
  · simp [reg, State.reset]
  · simp [State.reset]
  · simp only [byteAt_reset]
    exact ⟨unlisted_glyph0 f, unlisted_font f, unlisted_memInit f⟩

end Sys2Proof.Machine
end

section
/-! Drawing (43_display.md R141 to R143): the sprite `drawRows` draws is the one `SpriteHits` speaks of, so
`drawRows_spec` is the closed form, and the closed form twice is the identity. -/

namespace Sys2Proof.Machine

open Sys2Proof.Safety

theorem mem_spriteCols (col : Nat) : col ∈ spriteCols ↔ col < 8 := by
  simp [spriteCols]; omega

/-- The rows drawn hit the pixels the statement's sprite hits. -/
theorem rowsHit_iff_spriteHits (s : State) (x y : Reg) (n : BitVec 4) (r : Fin 32) (c : Fin 64) :
    RowsHit s.mode (reg s x).toNat (reg s y).toNat 0 (bytesFrom s n.toNat) r c ↔ SpriteHits s x y n r c := by
  unfold RowsHit RowHits SpriteHits
  constructor
  · rintro ⟨row, hrow, col, hcol, hbit, hfalls⟩
    rw [bytesFrom_getElem] at hbit
    rw [Nat.zero_add] at hfalls
    exact ⟨row, col, by simpa using hrow, (mem_spriteCols col).mp hcol, hbit, hfalls⟩
  · rintro ⟨row, col, hrow, hcol, hbit, hfalls⟩
    have hrow' : row < (bytesFrom s n.toNat).length := by rwa [bytesFrom_length]
    refine ⟨row, hrow', col, (mem_spriteCols col).mpr hcol, ?_, ?_⟩
    · rwa [bytesFrom_getElem]
    · rwa [Nat.zero_add]

/-- What one draw does to display and collision, in the statement's terms (R142). -/
theorem blit_spec (s : State) (x y : Reg) (n : BitVec 4) :
    (∀ r c, pixel (blit s (reg s x) (reg s y) (bytesFrom s n.toNat)).fb r c = true ↔
      (SpriteHits s x y n r c ↔ pixel s.fb r c = false)) ∧
    ∃ b, reg (blit s (reg s x) (reg s y) (bytesFrom s n.toNat)) 15 = flagByte b ∧
      (b = true ↔ ∃ r c, SpriteHits s x y n r c ∧ pixel s.fb r c = true) := by
  have hrows : 0 + (bytesFrom s n.toNat).length ≤ 16 := by
    have := n.isLt
    rw [bytesFrom_length]; omega
  obtain ⟨hpixels, hcollision⟩ := drawRows_spec s.mode (reg s x).toNat (reg s y).toNat 0 _ hrows (s.fb, false)
  simp only [rowsHit_iff_spriteHits, Bool.false_eq_true, false_or] at hpixels hcollision
  exact ⟨hpixels, _, reg_setReg_vf _ _, hcollision⟩

/-- Settles O44, the cause table's line of DRW. -/
theorem drawBeyondMemoryIsFatal : Obligations.DrawBeyondMemoryIsFatal := by
  intro s x y n hn hgt
  have hn' : n.toNat ≠ 0 := fun hzero => hn (BitVec.eq_of_toNat_eq hzero)
  exact exists_raised_of_fatalOf (if_pos ⟨hn', hgt⟩)

/-- Settles O43: with the rows in range DRW is one `blit`, whose flag is the collision. -/
theorem drawTogglesExactlyTheSprite : Obligations.DrawTogglesExactlyTheSprite := by
  intro s x y n hrange
  have hin : ¬ (n.toNat ≠ 0 ∧ 4095 < s.i.toNat + (n.toNat - 1)) := by
    rintro ⟨hne, hgt⟩
    rcases hrange with rfl | hle
    · exact hne rfl
    · omega
  have hending := (ending_drw s x y n).trans (if_neg hin)
  obtain ⟨hpixels, b, hvf, hcollision⟩ := blit_spec s x y n
  refine ⟨_, exec_of_ending_ok hending, hpixels, ?flag, fun r hr => ?regs, keepsAllBut_of_ending hending⟩
  case flag =>
    rw [hvf]
    cases b with
    | true => exact .inl ⟨rfl, hcollision.mp rfl⟩
    | false =>
      refine .inr ⟨rfl, fun r c hhit => Bool.eq_false_iff.mpr fun hon => ?_⟩
      exact Bool.false_ne_true (hcollision.mpr ⟨r, c, hhit, hon⟩)
  case regs => exact reg_setReg_of_ne _ _ fun heq => hr (List.mem_singleton.mpr heq)

/-- A state with the same sprite, origin and mode has the same hits. -/
theorem spriteHits_congr {s t : State} {x y : Reg} (n : BitVec 4) (hbytes : ∀ a, byteAt t a = byteAt s a)
    (hindex : t.i = s.i) (hmode : t.mode = s.mode) (hx : reg t x = reg s x) (hy : reg t y = reg s y)
    (r : Fin 32) (c : Fin 64) : SpriteHits t x y n r c ↔ SpriteHits s x y n r c := by
  unfold SpriteHits
  simp only [hbytes, hindex, hmode, hx, hy]

/-- A pixel toggled twice under one condition is as it was. -/
theorem eq_of_toggled_twice {hit : Prop} {before between after : Bool}
    (h : between = true ↔ (hit ↔ before = false)) (h' : after = true ↔ (hit ↔ between = false)) :
    after = before := by
  by_cases hhit : hit <;> cases before <;> cases between <;> simp_all

/-- Settles O45: the second draw has the hits of the first, and toggling twice is the identity; it collides where the
first draw turned a pixel on. -/
theorem drawTwiceRestoresTheDisplay : Obligations.DrawTwiceRestoresTheDisplay := by
  intro s t x y n hrange hdraw hx hy
  obtain ⟨t', hdraw', hfirst, -, -, hkeep⟩ := drawTogglesExactlyTheSprite s x y n hrange
  obtain rfl : t' = t := by simpa [hdraw'] using hdraw
  have hindex : t'.i = s.i := hkeep .index (by simp)
  obtain ⟨hmode, -⟩ : Keeps .straps s t' := hkeep .straps (by simp)
  have hhits := spriteHits_congr n (hkeep .memory (by simp)) hindex hmode hx hy
  obtain ⟨u, hredraw, hsecond, hflag, -, -⟩ := drawTogglesExactlyTheSprite t' x y n (by rwa [hindex])
  refine ⟨u, hredraw, fun r c => ?pixels, ?flag⟩
  case pixels => exact eq_of_toggled_twice (hfirst r c) ((hsecond r c).trans (iff_congr (hhits r c) Iff.rfl))
  case flag =>
    have hturned (r : Fin 32) (c : Fin 64) : (SpriteHits t' x y n r c ∧ pixel t'.fb r c = true) ↔
        (pixel s.fb r c = false ∧ pixel t'.fb r c = true) :=
      and_congr_left fun hon => (hhits r c).trans ((hfirst r c).mp hon)
    simp only [← hturned]
    obtain ⟨hone, hcollides⟩ | ⟨hzero, hclear⟩ := hflag
    · exact iff_of_true hone hcollides
    · refine iff_of_false (by rw [hzero]; decide) ?_
      rintro ⟨r, c, hhit, hon⟩
      rw [hclear r c hhit] at hon
      cases hon

end Sys2Proof.Machine
end
